-- ==== Sys2Proof/Word.lean ====
section
/-! DEFINITION. The widths of the R3000A: byte, halfword, word and register number (00_scope.md R5, R8). -/

namespace Sys2Proof

/-- A 32-bit word: register, address and data path (00_scope.md R5, XLEN). -/
abbrev Word := BitVec 32

/-- An 8-bit byte, the smallest addressable unit (20_memory.md R60). -/
abbrev Byte := BitVec 8

/-- A 16-bit immediate, offset or halfword. -/
abbrev Half := BitVec 16

/-- A 5-bit register number, 0..31 (30_encoding.md R109). -/
abbrev Reg := BitVec 5

end Sys2Proof
end

