-- ==== Sys2Proof/Config.lean ====
section
/-! DEFINITION. What an implementation fixes (00_scope.md R5, R6) and the values the spec leaves open.
A value the spec leaves open is an opaque constant without a body: no proof can see what it is. -/

namespace Sys2Proof.Config

/-- The address of the first instruction after reset (00_scope.md R5, RESET_PC). -/
def resetPc : Word := 0xBFC00000#32

/-- The number of general registers (00_scope.md R5, NGPR). -/
def generalRegisters : Nat := 32

/-- The byte order (00_scope.md R6, BIG_ENDIAN; decision D1): the assembly of words and halfwords from bytes
reads it (20_memory.md R63, R64). -/
def bigEndian : Bool := false

/-- Whether the part has a TLB (00_scope.md R6, TLB_PRESENT; decision D8): the mapped segments and the TLB
instructions read it (20_memory.md R80, R84). -/
def tlbPresent : Bool := true

/-- The number of TLB entries (00_scope.md R6, TLB_ENTRIES; decision D8). -/
abbrev tlbEntries : Nat := 64

/-- The number of address bits within a page, the logarithm of the page size. -/
abbrev pageBits : Nat := 12

/-- The page size in bytes, 4096 (00_scope.md R6, PAGE_BYTES; decision D8). -/
def pageBytes : Nat := 2 ^ pageBits

/-- Capacity and rate facts no rule depends on (00_scope.md R5). -/
def icacheBytes : Nat := 4096

/-- The data cache's size; no rule depends on it (00_scope.md R5). -/
def dcacheBytes : Nat := 1024

/-- The clock in hertz; no rule depends on it (00_scope.md R5). -/
def clockHz : Nat := 33868800

/-- The general exception vector with SR.BEV = 0 (60_exceptions.md R292). -/
def vecGeneralRam : Word := 0x80000080#32

/-- The general exception vector with SR.BEV = 1 (60_exceptions.md R292). -/
def vecGeneralBoot : Word := 0xBFC00180#32

/-- The UTLB-miss vector with SR.BEV = 0 (60_exceptions.md R292). -/
def vecUtlbRam : Word := 0x80000000#32

/-- The UTLB-miss vector with SR.BEV = 1 (60_exceptions.md R292). -/
def vecUtlbBoot : Word := 0xBFC00100#32

/-- Bits 15:0 (Imp and Rev) of PRId: the open parameter PRID_VALUE (10_state.md R41, decision D9; log 11). -/
opaque pridImpRev : BitVec 16

/-- PRId as MFC0 reads it: bits 31:16 read as 0 (10_state.md R41). -/
def pridValue : Word := 0#16 ++ pridImpRev

/-- Which division meets a corner case (44_multiply_divide.md R199). -/
inductive DivKind where
  | signed
  | unsigned
  deriving DecidableEq, Repr

/-- (hi, lo) after a division by zero and after 0x80000000 / -1: the open parameter DivCorner, a total
function of the operands (44_multiply_divide.md R199, U11; log 10). -/
opaque divCorner : DivKind → Word → Word → Word × Word

/-- The instance of DivCorner that the spec reports for this part (44_multiply_divide.md R199, table
DivCornerPSX). The machine does not use it: the parameter stays open. -/
def divCornerPsx : DivKind → Word → Word → Word × Word
  | .signed, n, d =>
    if d = 0#32 then (n, if n.msb then 1#32 else 0xFFFFFFFF#32) else (0#32, 0x80000000#32)
  | .unsigned, n, _ => (n, 0xFFFFFFFF#32)

/-- RandomDraw as an offset: the Random field at a step is 8 plus this, hence in 8..63
(10_state.md R33, decision D38; log 9). -/
opaque randomDraw : Nat → Fin 56

/-- The value a load returns while SR.IsC = 1 (20_memory.md R91, U22; log 13). -/
opaque isolatedLoad : Nat → Word

/-- Index.P after an MTC0 to Index (10_state.md R32, U14; log 12). -/
opaque indexProbe : Nat → BitVec 1

/-- Index.Index after a TLBP that finds no entry (48_cop0.md R255, U14; log 12). -/
opaque indexField : Nat → BitVec 6

/-- SR bit 19 (CM) as MFC0 reads it (10_state.md R38, U15; log 12). -/
opaque srCacheMiss : Nat → BitVec 1

/-- Cop2.readData (10_state.md R44): the word read and the device's new state. -/
opaque cop2ReadData : Nat → Reg → Word × Nat

/-- Whether the read of coprocessor 2 stands when the store of the SWC2 that made it raises DBE: 47_coprocessor.md
R237 says the coprocessor has been read, 60_exceptions.md R271 that the instruction has no effect whatsoever, and no
ruling decides. DESIGN CHOICE: open (log 14). Safe. -/
opaque swc2ReadStands : Bool

/-- Cop2.readCtl (10_state.md R44): the word read and the device's new state. -/
opaque cop2ReadCtl : Nat → Reg → Word × Nat

/-- Cop2.writeData (10_state.md R44): the device's new state. -/
opaque cop2WriteData : Nat → Reg → Word → Nat

/-- Cop2.writeCtl (10_state.md R44): the device's new state. -/
opaque cop2WriteCtl : Nat → Reg → Word → Nat

/-- Cop2.op (10_state.md R44): the device's new state after the operation cofun. -/
opaque cop2Op : Nat → BitVec 25 → Nat

/-- Cop2.cond (10_state.md R44, 47_coprocessor.md R247): the device's condition line. -/
opaque cop2Cond : Nat → Bool

end Sys2Proof.Config
end

