-- ==== Sys2Proof/Syntax.lean ====
section
/-! DEFINITION. The instructions: one constructor for each mnemonic of spec/opcode_table.json, with the
operands of 30_encoding.md R125 in the order of the assembler syntax (30_encoding.md R102 to R106). -/

namespace Sys2Proof

/-- An instruction of the R3000A. Unused fields of an encoding (30_encoding.md R117) are no operands. -/
inductive Instr where
  /-- LB: rule R141. -/
  | lb (rt base : Reg) (offset : Half)
  /-- LH: rule R143. -/
  | lh (rt base : Reg) (offset : Half)
  /-- LWL: rule R146. -/
  | lwl (rt base : Reg) (offset : Half)
  /-- LW: rule R145. -/
  | lw (rt base : Reg) (offset : Half)
  /-- LBU: rule R142. -/
  | lbu (rt base : Reg) (offset : Half)
  /-- LHU: rule R144. -/
  | lhu (rt base : Reg) (offset : Half)
  /-- LWR: rule R147. -/
  | lwr (rt base : Reg) (offset : Half)
  /-- SB: rule R149. -/
  | sb (rt base : Reg) (offset : Half)
  /-- SH: rule R150. -/
  | sh (rt base : Reg) (offset : Half)
  /-- SWL: rule R152. -/
  | swl (rt base : Reg) (offset : Half)
  /-- SW: rule R151. -/
  | sw (rt base : Reg) (offset : Half)
  /-- SWR: rule R153. -/
  | swr (rt base : Reg) (offset : Half)
  /-- ADDI: rule R161. -/
  | addi (rt rs : Reg) (imm : Half)
  /-- ADDIU: rule R162. -/
  | addiu (rt rs : Reg) (imm : Half)
  /-- SLTI: rule R163. -/
  | slti (rt rs : Reg) (imm : Half)
  /-- SLTIU: rule R164. -/
  | sltiu (rt rs : Reg) (imm : Half)
  /-- ANDI: rule R165. -/
  | andi (rt rs : Reg) (imm : Half)
  /-- ORI: rule R166. -/
  | ori (rt rs : Reg) (imm : Half)
  /-- XORI: rule R167. -/
  | xori (rt rs : Reg) (imm : Half)
  /-- LUI: rule R168. -/
  | lui (rt : Reg) (imm : Half)
  /-- ADD: rule R171. -/
  | add (rd rs rt : Reg)
  /-- ADDU: rule R172. -/
  | addu (rd rs rt : Reg)
  /-- SUB: rule R173. -/
  | sub (rd rs rt : Reg)
  /-- SUBU: rule R174. -/
  | subu (rd rs rt : Reg)
  /-- AND: rule R177. -/
  | and (rd rs rt : Reg)
  /-- OR: rule R178. -/
  | or (rd rs rt : Reg)
  /-- XOR: rule R179. -/
  | xor (rd rs rt : Reg)
  /-- NOR: rule R180. -/
  | nor (rd rs rt : Reg)
  /-- SLT: rule R175. -/
  | slt (rd rs rt : Reg)
  /-- SLTU: rule R176. -/
  | sltu (rd rs rt : Reg)
  /-- SLL: rule R186. -/
  | sll (rd rt : Reg) (shamt : BitVec 5)
  /-- SRL: rule R187. -/
  | srl (rd rt : Reg) (shamt : BitVec 5)
  /-- SRA: rule R188. -/
  | sra (rd rt : Reg) (shamt : BitVec 5)
  /-- SLLV: rule R189. -/
  | sllv (rd rt rs : Reg)
  /-- SRLV: rule R190. -/
  | srlv (rd rt rs : Reg)
  /-- SRAV: rule R191. -/
  | srav (rd rt rs : Reg)
  /-- MULT: rule R195. -/
  | mult (rs rt : Reg)
  /-- MULTU: rule R196. -/
  | multu (rs rt : Reg)
  /-- DIV: rule R197. -/
  | div (rs rt : Reg)
  /-- DIVU: rule R198. -/
  | divu (rs rt : Reg)
  /-- MFHI: rule R200. -/
  | mfhi (rd : Reg)
  /-- MTHI: rule R202. -/
  | mthi (rs : Reg)
  /-- MFLO: rule R201. -/
  | mflo (rd : Reg)
  /-- MTLO: rule R203. -/
  | mtlo (rs : Reg)
  /-- J: rule R210. -/
  | j (target : BitVec 26)
  /-- JAL: rule R211. -/
  | jal (target : BitVec 26)
  /-- JR: rule R212. -/
  | jr (rs : Reg)
  /-- JALR: rule R213. -/
  | jalr (rs rd : Reg)
  /-- BEQ: rule R214. -/
  | beq (rs rt : Reg) (offset : Half)
  /-- BNE: rule R215. -/
  | bne (rs rt : Reg) (offset : Half)
  /-- BLEZ: rule R216. -/
  | blez (rs : Reg) (offset : Half)
  /-- BGTZ: rule R217. -/
  | bgtz (rs : Reg) (offset : Half)
  /-- BLTZ: rule R218. -/
  | bltz (rs : Reg) (offset : Half)
  /-- BGEZ: rule R219. -/
  | bgez (rs : Reg) (offset : Half)
  /-- BLTZAL: rule R220. -/
  | bltzal (rs : Reg) (offset : Half)
  /-- BGEZAL: rule R221. -/
  | bgezal (rs : Reg) (offset : Half)
  /-- SYSCALL: rule R230. -/
  | syscall (code : BitVec 20)
  /-- BREAK: rule R231. -/
  | brk (code : BitVec 20)
  /-- LWC0: rule R236. -/
  | lwc0 (rt base : Reg) (offset : Half)
  /-- LWC1: rule R236. -/
  | lwc1 (rt base : Reg) (offset : Half)
  /-- LWC2: rule R236. -/
  | lwc2 (rt base : Reg) (offset : Half)
  /-- LWC3: rule R236. -/
  | lwc3 (rt base : Reg) (offset : Half)
  /-- SWC0: rule R237. -/
  | swc0 (rt base : Reg) (offset : Half)
  /-- SWC1: rule R237. -/
  | swc1 (rt base : Reg) (offset : Half)
  /-- SWC2: rule R237. -/
  | swc2 (rt base : Reg) (offset : Half)
  /-- SWC3: rule R237. -/
  | swc3 (rt base : Reg) (offset : Half)
  /-- MFC0: rule R251. -/
  | mfc0 (rt rd : Reg)
  /-- CFC0: rule R244. -/
  | cfc0 (rt rd : Reg)
  /-- MTC0: rule R250. -/
  | mtc0 (rt rd : Reg)
  /-- CTC0: rule R244. -/
  | ctc0 (rt rd : Reg)
  /-- BC0F: rule R245. -/
  | bc0f (offset : Half)
  /-- BC0T: rule R246. -/
  | bc0t (offset : Half)
  /-- MFC1: rule R239. -/
  | mfc1 (rt rd : Reg)
  /-- CFC1: rule R241. -/
  | cfc1 (rt rd : Reg)
  /-- MTC1: rule R238. -/
  | mtc1 (rt rd : Reg)
  /-- CTC1: rule R240. -/
  | ctc1 (rt rd : Reg)
  /-- BC1F: rule R245. -/
  | bc1f (offset : Half)
  /-- BC1T: rule R246. -/
  | bc1t (offset : Half)
  /-- MFC2: rule R239. -/
  | mfc2 (rt rd : Reg)
  /-- CFC2: rule R241. -/
  | cfc2 (rt rd : Reg)
  /-- MTC2: rule R238. -/
  | mtc2 (rt rd : Reg)
  /-- CTC2: rule R240. -/
  | ctc2 (rt rd : Reg)
  /-- BC2F: rule R245. -/
  | bc2f (offset : Half)
  /-- BC2T: rule R246. -/
  | bc2t (offset : Half)
  /-- MFC3: rule R239. -/
  | mfc3 (rt rd : Reg)
  /-- CFC3: rule R241. -/
  | cfc3 (rt rd : Reg)
  /-- MTC3: rule R238. -/
  | mtc3 (rt rd : Reg)
  /-- CTC3: rule R240. -/
  | ctc3 (rt rd : Reg)
  /-- BC3F: rule R245. -/
  | bc3f (offset : Half)
  /-- BC3T: rule R246. -/
  | bc3t (offset : Half)
  /-- TLBR: rule R252. -/
  | tlbr
  /-- TLBWI: rule R253. -/
  | tlbwi
  /-- TLBWR: rule R254. -/
  | tlbwr
  /-- TLBP: rule R255. -/
  | tlbp
  /-- RFE: rule R256. -/
  | rfe
  /-- COP1: rule R243. -/
  | cop1 (cofun : BitVec 25)
  /-- COP2: rule R243. -/
  | cop2 (cofun : BitVec 25)
  /-- COP3: rule R243. -/
  | cop3 (cofun : BitVec 25)
  /-- RESERVED: rule R116. -/
  | reserved (word : Word)
  deriving DecidableEq, Repr

end Sys2Proof
end

