-- ==== Sys2Proof/WellFormed.lean ====
section
/-! DEFINITION. When an instruction term stands for a word that may be executed: the N/A cells of the
opcode maps for RESERVED (30_encoding.md R116) and the two operand patterns the decoder refuses
(93_implementation_defined.md U12, U13). -/

namespace Sys2Proof

/-- The 24 N/A cells of the primary opcode map (30_encoding.md R116). -/
def naPrimary : List Nat :=
  [0x14, 0x15, 0x16, 0x17, 0x18, 0x19, 0x1A, 0x1B, 0x1C, 0x1D, 0x1E, 0x1F,
   0x27, 0x2C, 0x2D, 0x2F, 0x34, 0x35, 0x36, 0x37, 0x3C, 0x3D, 0x3E, 0x3F]

/-- The 36 N/A cells of the secondary opcode map (30_encoding.md R116). -/
def naSecondary : List Nat :=
  [0x01, 0x05, 0x0A, 0x0B, 0x0E, 0x0F, 0x14, 0x15, 0x16, 0x17, 0x1C, 0x1D, 0x1E, 0x1F, 0x28, 0x29] ++
  [0x2C, 0x2D, 0x2E, 0x2F, 0x30, 0x31, 0x32, 0x33, 0x34, 0x35, 0x36, 0x37, 0x38, 0x39, 0x3A, 0x3B,
   0x3C, 0x3D, 0x3E, 0x3F]

/-- The word is a Reserved Instruction: an N/A cell of one of the two maps (30_encoding.md R116). -/
def isReservedWord (w : Word) : Bool :=
  naPrimary.contains (w.extractLsb' 26 6).toNat ||
    ((w.extractLsb' 26 6).toNat == 0 && naSecondary.contains (w.extractLsb' 0 6).toNat)

/-- JALR must not name one register, other than r0, as target and as link (45_jump_branch.md R227, U12). -/
def jalrOperandsOk (rs rd : Reg) : Bool := rs != rd || rd == 0#5

/-- BLTZAL and BGEZAL must not test the link register (45_jump_branch.md R227, U13). -/
def linkBranchOperandOk (rs : Reg) : Bool := rs != 31#5

/-- The instruction is one that some word of 30_encoding.md stands for and that the decoder accepts. -/
def Instr.wf : Instr → Bool
  | .reserved w => isReservedWord w
  | .jalr rs rd => jalrOperandsOk rs rd
  | .bltzal rs _ => linkBranchOperandOk rs
  | .bgezal rs _ => linkBranchOperandOk rs
  | _ => true

end Sys2Proof
end

