-- ==== Sys2Proof/Decode.lean ====
section
/-! DEFINITION. The decoder, total on any word and any bytes, which rejects by name what no row of the
opcode maps stands for (30_encoding.md R100 to R118), and the encoder written from the same maps. -/

namespace Sys2Proof

/-- Why the decoder gives no instruction. -/
inductive DecodeError where
  /-- Fewer than four bytes: every instruction is one 32-bit word (30_encoding.md R100). -/
  | tooShort
  /-- A field the instruction does not use is not zero (30_encoding.md R117, U4). -/
  | unusedField
  /-- Primary opcode 01 with an unlisted rt (30_encoding.md R113, U5). -/
  | bcondZ
  /-- An unlisted sub-operation of coprocessor z (30_encoding.md R114, U6). -/
  | copSub (z : BitVec 2)
  /-- An unlisted coprocessor 0 function (30_encoding.md R115, U7). -/
  | cop0Function
  /-- JALR with rs = rd, not r0 (45_jump_branch.md R227, U12). -/
  | jalrSameRegister
  /-- BLTZAL or BGEZAL with rs = 31 (45_jump_branch.md R227, U13). -/
  | linkBranchOn31
  deriving DecidableEq, Repr

/-! ## The fields of a word (30_encoding.md R101) -/

/-- op, bits 31:26. -/
def opOf (w : Word) : BitVec 6 := w.extractLsb' 26 6

/-- rs, bits 25:21. -/
def rsOf (w : Word) : Reg := w.extractLsb' 21 5

/-- rt, bits 20:16. -/
def rtOf (w : Word) : Reg := w.extractLsb' 16 5

/-- rd, bits 15:11. -/
def rdOf (w : Word) : Reg := w.extractLsb' 11 5

/-- shamt, bits 10:6. -/
def shamtOf (w : Word) : BitVec 5 := w.extractLsb' 6 5

/-- funct, bits 5:0. -/
def functOf (w : Word) : BitVec 6 := w.extractLsb' 0 6

/-- imm, bits 15:0. -/
def immOf (w : Word) : Half := w.extractLsb' 0 16

/-- target, bits 25:0. -/
def targetOf (w : Word) : BitVec 26 := w.extractLsb' 0 26

/-- The trap code of SYSCALL and BREAK, bits 25:6 (30_encoding.md R121). -/
def codeOf (w : Word) : BitVec 20 := w.extractLsb' 6 20

/-- Bit 25, which selects the operation form of COPz (30_encoding.md R106). -/
def coOf (w : Word) : BitVec 1 := w.extractLsb' 25 1

/-- cofun, bits 24:0 (30_encoding.md R106). -/
def cofunOf (w : Word) : BitVec 25 := w.extractLsb' 0 25

/-! ## Decoding -/

/-- The instruction when its unused fields are zero, a rejection when they are not (30_encoding.md R117). -/
def canonical (unusedZero : Bool) (i : Instr) : Except DecodeError Instr :=
  if unusedZero then .ok i else .error .unusedField

/-- The instruction when its operands are ones the decoder accepts, the rejection e when they are not. -/
def accepted (operandsOk : Bool) (e : DecodeError) (i : Instr) : Except DecodeError Instr :=
  if operandsOk then .ok i else .error e

/-- Primary opcode 00: the secondary map on funct, given the fields of the word (30_encoding.md R111). The last
arm is the N/A cells. -/
def decodeSpecial (funct : Nat) (rs rt rd : Reg) (sh : BitVec 5) (w : Word) : Except DecodeError Instr :=
  match funct with
  | 0x00 => canonical (rs == 0#5) (.sll rd rt sh)
  | 0x02 => canonical (rs == 0#5) (.srl rd rt sh)
  | 0x03 => canonical (rs == 0#5) (.sra rd rt sh)
  | 0x04 => canonical (sh == 0#5) (.sllv rd rt rs)
  | 0x06 => canonical (sh == 0#5) (.srlv rd rt rs)
  | 0x07 => canonical (sh == 0#5) (.srav rd rt rs)
  | 0x08 => canonical (rt == 0#5 && rd == 0#5 && sh == 0#5) (.jr rs)
  | 0x09 =>
    if rt == 0#5 && sh == 0#5 then accepted (jalrOperandsOk rs rd) .jalrSameRegister (.jalr rs rd)
    else .error .unusedField
  | 0x0C => .ok (.syscall (codeOf w))
  | 0x0D => .ok (.brk (codeOf w))
  | 0x10 => canonical (rs == 0#5 && rt == 0#5 && sh == 0#5) (.mfhi rd)
  | 0x11 => canonical (rt == 0#5 && rd == 0#5 && sh == 0#5) (.mthi rs)
  | 0x12 => canonical (rs == 0#5 && rt == 0#5 && sh == 0#5) (.mflo rd)
  | 0x13 => canonical (rt == 0#5 && rd == 0#5 && sh == 0#5) (.mtlo rs)
  | 0x18 => canonical (rd == 0#5 && sh == 0#5) (.mult rs rt)
  | 0x19 => canonical (rd == 0#5 && sh == 0#5) (.multu rs rt)
  | 0x1A => canonical (rd == 0#5 && sh == 0#5) (.div rs rt)
  | 0x1B => canonical (rd == 0#5 && sh == 0#5) (.divu rs rt)
  | 0x20 => canonical (sh == 0#5) (.add rd rs rt)
  | 0x21 => canonical (sh == 0#5) (.addu rd rs rt)
  | 0x22 => canonical (sh == 0#5) (.sub rd rs rt)
  | 0x23 => canonical (sh == 0#5) (.subu rd rs rt)
  | 0x24 => canonical (sh == 0#5) (.and rd rs rt)
  | 0x25 => canonical (sh == 0#5) (.or rd rs rt)
  | 0x26 => canonical (sh == 0#5) (.xor rd rs rt)
  | 0x27 => canonical (sh == 0#5) (.nor rd rs rt)
  | 0x2A => canonical (sh == 0#5) (.slt rd rs rt)
  | 0x2B => canonical (sh == 0#5) (.sltu rd rs rt)
  | _ => .ok (.reserved w)

/-- Primary opcode 01: the compare-with-zero branches, by rt (30_encoding.md R113). -/
def decodeBcond (rt : Nat) (rs : Reg) (imm : Half) : Except DecodeError Instr :=
  match rt with
  | 0x00 => .ok (.bltz rs imm)
  | 0x01 => .ok (.bgez rs imm)
  | 0x10 => accepted (linkBranchOperandOk rs) .linkBranchOn31 (.bltzal rs imm)
  | 0x11 => accepted (linkBranchOperandOk rs) .linkBranchOn31 (.bgezal rs imm)
  | _ => .error .bcondZ

/-- Primary opcodes 10 to 13: the forms of coprocessor z, given the rs field, whose top bit 25 selects the
operation form (30_encoding.md R114); op is what the operation form decodes to. -/
def decodeCop (z : BitVec 2) (mf cf mt ct : Reg → Reg → Instr) (bf bt : Half → Instr)
    (op : Except DecodeError Instr) (sub rt : Nat) (w : Word) : Except DecodeError Instr :=
  let lowZero := w.extractLsb' 0 11 == 0#11
  match sub with
  | 0x00 => canonical lowZero (mf (rtOf w) (rdOf w))
  | 0x02 => canonical lowZero (cf (rtOf w) (rdOf w))
  | 0x04 => canonical lowZero (mt (rtOf w) (rdOf w))
  | 0x06 => canonical lowZero (ct (rtOf w) (rdOf w))
  | 0x08 =>
    match rt with
    | 0x00 => .ok (bf (immOf w))
    | 0x01 => .ok (bt (immOf w))
    | _ => .error (.copSub z)
  | _ => if coOf w == 1#1 then op else .error (.copSub z)

/-- The operations of coprocessor 0, by bits 5:0 (30_encoding.md R115). -/
def decodeCop0Op (w : Word) : Except DecodeError Instr :=
  let zero := w.extractLsb' 6 19 == 0#19
  match (functOf w).toNat with
  | 0x01 => canonical zero .tlbr
  | 0x02 => canonical zero .tlbwi
  | 0x06 => canonical zero .tlbwr
  | 0x08 => canonical zero .tlbp
  | 0x10 => canonical zero .rfe
  | _ => .error .cop0Function

/-- The primary opcode map, given the fields of the word (30_encoding.md R107, R110). The last arm is the N/A
cells. -/
def decodePrimary (op : Nat) (rs rt : Reg) (imm : Half) (w : Word) : Except DecodeError Instr :=
  match op with
  | 0x00 => decodeSpecial (functOf w).toNat (rsOf w) (rtOf w) (rdOf w) (shamtOf w) w
  | 0x01 => decodeBcond rt.toNat rs imm
  | 0x02 => .ok (.j (targetOf w))
  | 0x03 => .ok (.jal (targetOf w))
  | 0x04 => .ok (.beq rs rt imm)
  | 0x05 => .ok (.bne rs rt imm)
  | 0x06 => canonical (rt == 0#5) (.blez rs imm)
  | 0x07 => canonical (rt == 0#5) (.bgtz rs imm)
  | 0x08 => .ok (.addi rt rs imm)
  | 0x09 => .ok (.addiu rt rs imm)
  | 0x0A => .ok (.slti rt rs imm)
  | 0x0B => .ok (.sltiu rt rs imm)
  | 0x0C => .ok (.andi rt rs imm)
  | 0x0D => .ok (.ori rt rs imm)
  | 0x0E => .ok (.xori rt rs imm)
  | 0x0F => canonical (rs == 0#5) (.lui rt imm)
  | 0x10 => decodeCop 0#2 .mfc0 .cfc0 .mtc0 .ctc0 .bc0f .bc0t (decodeCop0Op w) rs.toNat rt.toNat w
  | 0x11 => decodeCop 1#2 .mfc1 .cfc1 .mtc1 .ctc1 .bc1f .bc1t (.ok (.cop1 (cofunOf w))) rs.toNat rt.toNat w
  | 0x12 => decodeCop 2#2 .mfc2 .cfc2 .mtc2 .ctc2 .bc2f .bc2t (.ok (.cop2 (cofunOf w))) rs.toNat rt.toNat w
  | 0x13 => decodeCop 3#2 .mfc3 .cfc3 .mtc3 .ctc3 .bc3f .bc3t (.ok (.cop3 (cofunOf w))) rs.toNat rt.toNat w
  | 0x20 => .ok (.lb rt rs imm)
  | 0x21 => .ok (.lh rt rs imm)
  | 0x22 => .ok (.lwl rt rs imm)
  | 0x23 => .ok (.lw rt rs imm)
  | 0x24 => .ok (.lbu rt rs imm)
  | 0x25 => .ok (.lhu rt rs imm)
  | 0x26 => .ok (.lwr rt rs imm)
  | 0x28 => .ok (.sb rt rs imm)
  | 0x29 => .ok (.sh rt rs imm)
  | 0x2A => .ok (.swl rt rs imm)
  | 0x2B => .ok (.sw rt rs imm)
  | 0x2E => .ok (.swr rt rs imm)
  | 0x30 => .ok (.lwc0 rt rs imm)
  | 0x31 => .ok (.lwc1 rt rs imm)
  | 0x32 => .ok (.lwc2 rt rs imm)
  | 0x33 => .ok (.lwc3 rt rs imm)
  | 0x38 => .ok (.swc0 rt rs imm)
  | 0x39 => .ok (.swc1 rt rs imm)
  | 0x3A => .ok (.swc2 rt rs imm)
  | 0x3B => .ok (.swc3 rt rs imm)
  | _ => .ok (.reserved w)

/-- The decoding of one word (30_encoding.md R107). -/
def decode (w : Word) : Except DecodeError Instr := decodePrimary (opOf w).toNat (rsOf w) (rtOf w) (immOf w) w

/-- Bytes given from the least significant on, in the order of their addresses (20_memory.md R63, R64). -/
def inByteOrder (l : List Byte) : List Byte := if Config.bigEndian then l.reverse else l

/-- The halfword of two bytes in the order of their addresses (20_memory.md R64). -/
def halfOfBytes (b0 b1 : Byte) : Half := if Config.bigEndian then b0 ++ b1 else b1 ++ b0

/-- The word of four bytes in the order of their addresses: little-endian, so that the byte at the lowest
address is in bits 7:0 (20_memory.md R64). -/
def wordOfBytes (b0 b1 b2 b3 : Byte) : Word :=
  if Config.bigEndian then b0 ++ b1 ++ b2 ++ b3 else b3 ++ b2 ++ b1 ++ b0

/-- The decoding of the bytes of an instruction stream: the first four make the word. -/
def decodeBytes : List Byte → Except DecodeError Instr
  | b0 :: b1 :: b2 :: b3 :: _ => decode (wordOfBytes b0 b1 b2 b3)
  | _ => .error .tooShort

/-- The four bytes of a word in memory order (20_memory.md R64). -/
def bytesOfWord (w : Word) : List Byte :=
  inByteOrder [w.extractLsb' 0 8, w.extractLsb' 8 8, w.extractLsb' 16 8, w.extractLsb' 24 8]

/-- The word whose low nbits bits are w and whose other bits are 0. -/
def tableWord (nbits w : Nat) : Word := BitVec.ofNat 32 (w % 2 ^ nbits)

/-- The instruction the decoder reads from a row of spec/opcode_table.json laid out in memory. -/
def decodeTableWord (nbits w : Nat) : Option Instr :=
  match decodeBytes (bytesOfWord (tableWord nbits w)) with
  | .ok i => some i
  | .error _ => none

/-! ## Encoding (30_encoding.md R102 to R106, R110 to R115) -/

/-- An I-type word (30_encoding.md R102). -/
def encodeI (op : BitVec 6) (rs rt : Reg) (imm : Half) : Word := op ++ rs ++ rt ++ imm

/-- A SPECIAL R-type word (30_encoding.md R104). -/
def encodeR (rs rt rd : Reg) (shamt : BitVec 5) (funct : BitVec 6) : Word :=
  0#6 ++ rs ++ rt ++ rd ++ shamt ++ funct

/-- A coprocessor move word (30_encoding.md R106). -/
def encodeMove (op : BitVec 6) (sub rt rd : Reg) : Word := op ++ sub ++ rt ++ rd ++ 0#11

/-- The word of an instruction, with every unused field zero (30_encoding.md R117). -/
def encode : Instr → Word
  | .lb rt base offset => encodeI 0x20#6 base rt offset
  | .lh rt base offset => encodeI 0x21#6 base rt offset
  | .lwl rt base offset => encodeI 0x22#6 base rt offset
  | .lw rt base offset => encodeI 0x23#6 base rt offset
  | .lbu rt base offset => encodeI 0x24#6 base rt offset
  | .lhu rt base offset => encodeI 0x25#6 base rt offset
  | .lwr rt base offset => encodeI 0x26#6 base rt offset
  | .sb rt base offset => encodeI 0x28#6 base rt offset
  | .sh rt base offset => encodeI 0x29#6 base rt offset
  | .swl rt base offset => encodeI 0x2A#6 base rt offset
  | .sw rt base offset => encodeI 0x2B#6 base rt offset
  | .swr rt base offset => encodeI 0x2E#6 base rt offset
  | .addi rt rs imm => encodeI 0x08#6 rs rt imm
  | .addiu rt rs imm => encodeI 0x09#6 rs rt imm
  | .slti rt rs imm => encodeI 0x0A#6 rs rt imm
  | .sltiu rt rs imm => encodeI 0x0B#6 rs rt imm
  | .andi rt rs imm => encodeI 0x0C#6 rs rt imm
  | .ori rt rs imm => encodeI 0x0D#6 rs rt imm
  | .xori rt rs imm => encodeI 0x0E#6 rs rt imm
  | .lui rt imm => encodeI 0x0F#6 0#5 rt imm
  | .add rd rs rt => encodeR rs rt rd 0#5 0x20#6
  | .addu rd rs rt => encodeR rs rt rd 0#5 0x21#6
  | .sub rd rs rt => encodeR rs rt rd 0#5 0x22#6
  | .subu rd rs rt => encodeR rs rt rd 0#5 0x23#6
  | .and rd rs rt => encodeR rs rt rd 0#5 0x24#6
  | .or rd rs rt => encodeR rs rt rd 0#5 0x25#6
  | .xor rd rs rt => encodeR rs rt rd 0#5 0x26#6
  | .nor rd rs rt => encodeR rs rt rd 0#5 0x27#6
  | .slt rd rs rt => encodeR rs rt rd 0#5 0x2A#6
  | .sltu rd rs rt => encodeR rs rt rd 0#5 0x2B#6
  | .sll rd rt shamt => encodeR 0#5 rt rd shamt 0x00#6
  | .srl rd rt shamt => encodeR 0#5 rt rd shamt 0x02#6
  | .sra rd rt shamt => encodeR 0#5 rt rd shamt 0x03#6
  | .sllv rd rt rs => encodeR rs rt rd 0#5 0x04#6
  | .srlv rd rt rs => encodeR rs rt rd 0#5 0x06#6
  | .srav rd rt rs => encodeR rs rt rd 0#5 0x07#6
  | .mult rs rt => encodeR rs rt 0#5 0#5 0x18#6
  | .multu rs rt => encodeR rs rt 0#5 0#5 0x19#6
  | .div rs rt => encodeR rs rt 0#5 0#5 0x1A#6
  | .divu rs rt => encodeR rs rt 0#5 0#5 0x1B#6
  | .mfhi rd => encodeR 0#5 0#5 rd 0#5 0x10#6
  | .mthi rs => encodeR rs 0#5 0#5 0#5 0x11#6
  | .mflo rd => encodeR 0#5 0#5 rd 0#5 0x12#6
  | .mtlo rs => encodeR rs 0#5 0#5 0#5 0x13#6
  | .j target => 0x02#6 ++ target
  | .jal target => 0x03#6 ++ target
  | .jr rs => encodeR rs 0#5 0#5 0#5 0x08#6
  | .jalr rs rd => encodeR rs 0#5 rd 0#5 0x09#6
  | .beq rs rt offset => encodeI 0x04#6 rs rt offset
  | .bne rs rt offset => encodeI 0x05#6 rs rt offset
  | .blez rs offset => encodeI 0x06#6 rs 0#5 offset
  | .bgtz rs offset => encodeI 0x07#6 rs 0#5 offset
  | .bltz rs offset => encodeI 0x01#6 rs 0x00#5 offset
  | .bgez rs offset => encodeI 0x01#6 rs 0x01#5 offset
  | .bltzal rs offset => encodeI 0x01#6 rs 0x10#5 offset
  | .bgezal rs offset => encodeI 0x01#6 rs 0x11#5 offset
  | .syscall code => 0#6 ++ code ++ 0x0C#6
  | .brk code => 0#6 ++ code ++ 0x0D#6
  | .lwc0 rt base offset => encodeI 0x30#6 base rt offset
  | .lwc1 rt base offset => encodeI 0x31#6 base rt offset
  | .lwc2 rt base offset => encodeI 0x32#6 base rt offset
  | .lwc3 rt base offset => encodeI 0x33#6 base rt offset
  | .swc0 rt base offset => encodeI 0x38#6 base rt offset
  | .swc1 rt base offset => encodeI 0x39#6 base rt offset
  | .swc2 rt base offset => encodeI 0x3A#6 base rt offset
  | .swc3 rt base offset => encodeI 0x3B#6 base rt offset
  | .mfc0 rt rd => encodeMove 0x10#6 0x00#5 rt rd
  | .cfc0 rt rd => encodeMove 0x10#6 0x02#5 rt rd
  | .mtc0 rt rd => encodeMove 0x10#6 0x04#5 rt rd
  | .ctc0 rt rd => encodeMove 0x10#6 0x06#5 rt rd
  | .bc0f offset => encodeI 0x10#6 0x08#5 0x00#5 offset
  | .bc0t offset => encodeI 0x10#6 0x08#5 0x01#5 offset
  | .mfc1 rt rd => encodeMove 0x11#6 0x00#5 rt rd
  | .cfc1 rt rd => encodeMove 0x11#6 0x02#5 rt rd
  | .mtc1 rt rd => encodeMove 0x11#6 0x04#5 rt rd
  | .ctc1 rt rd => encodeMove 0x11#6 0x06#5 rt rd
  | .bc1f offset => encodeI 0x11#6 0x08#5 0x00#5 offset
  | .bc1t offset => encodeI 0x11#6 0x08#5 0x01#5 offset
  | .mfc2 rt rd => encodeMove 0x12#6 0x00#5 rt rd
  | .cfc2 rt rd => encodeMove 0x12#6 0x02#5 rt rd
  | .mtc2 rt rd => encodeMove 0x12#6 0x04#5 rt rd
  | .ctc2 rt rd => encodeMove 0x12#6 0x06#5 rt rd
  | .bc2f offset => encodeI 0x12#6 0x08#5 0x00#5 offset
  | .bc2t offset => encodeI 0x12#6 0x08#5 0x01#5 offset
  | .mfc3 rt rd => encodeMove 0x13#6 0x00#5 rt rd
  | .cfc3 rt rd => encodeMove 0x13#6 0x02#5 rt rd
  | .mtc3 rt rd => encodeMove 0x13#6 0x04#5 rt rd
  | .ctc3 rt rd => encodeMove 0x13#6 0x06#5 rt rd
  | .bc3f offset => encodeI 0x13#6 0x08#5 0x00#5 offset
  | .bc3t offset => encodeI 0x13#6 0x08#5 0x01#5 offset
  | .tlbr => 0x42000001#32
  | .tlbwi => 0x42000002#32
  | .tlbwr => 0x42000006#32
  | .tlbp => 0x42000008#32
  | .rfe => 0x42000010#32
  | .cop1 cofun => 0x11#6 ++ 1#1 ++ cofun
  | .cop2 cofun => 0x12#6 ++ 1#1 ++ cofun
  | .cop3 cofun => 0x13#6 ++ 1#1 ++ cofun
  | .reserved word => word

end Sys2Proof
end

