-- ==== Sys2Proof/Machine/State.lean ====
section
/-! DEFINITION. The state of the machine as plain data (10_state.md), the ways a step can stop, the
exceptions, and the state right after reset (10_state.md R48). -/

namespace Sys2Proof.Machine

/-! ## How a step can stop -/

/-- The machine stops with a fault: the spec calls the behaviour UNPREDICTABLE and treats it as a fault
(70_reset_and_hazards.md R346), or the access has no step (20_memory.md R77). Each one is safe: the model
stops where hardware may go on. -/
inductive Fault where
  /-- The instruction reads the register the one before it loaded; raised by every meaning with source
  registers (70_reset_and_hazards.md R330, U2). Safe. -/
  | loadDelay
  /-- HI or LO is written within two instructions of an MFHI or MFLO; raised by MULT, MULTU, DIV, DIVU,
  MTHI and MTLO (70_reset_and_hazards.md R332, U3). Safe. -/
  | hiLoHazard
  /-- A jump or branch stands in a delay slot; raised by every jump and branch
  (70_reset_and_hazards.md R334, U10). Safe. -/
  | branchInDelaySlot
  /-- Primary opcode 01 with an unlisted rt; raised by the step (30_encoding.md R113, U5). Safe. -/
  | unassignedBcondZ
  /-- An unlisted sub-operation of a usable coprocessor; raised by the step (30_encoding.md R114, U6). Safe. -/
  | unassignedCopSub
  /-- An unlisted coprocessor 0 function, coprocessor 0 usable; raised by the step (30_encoding.md R115, U7). Safe. -/
  | unassignedCop0Function
  /-- An instruction for coprocessor 1 or 3 while SR.CU marks it usable; raised by the meanings for z = 1
  and z = 3 (47_coprocessor.md R235, U8). Safe. -/
  | absentCoprocessor
  /-- An MTC0 that sets SR.RE; raised by MTC0 (10_state.md R38, U16). Safe. -/
  | reverseEndian
  /-- An MTC0 that sets SR.SwC; raised by MTC0 (20_memory.md R92, U24). Safe. -/
  | swapCaches
  /-- A reserved coprocessor 0 register; raised by MTC0 and MFC0 (10_state.md R42, U18). Safe. -/
  | reservedCp0Register
  /-- Two or more TLB entries match; raised by translation and by TLBP (20_memory.md R82, U19). Safe. -/
  | multipleTlbMatch
  /-- A part without a TLB: a kseg2 access, or TLBR, TLBWI, TLBWR or TLBP; raised by translation and by the four
  only where Config.tlbPresent is false, which it is not (20_memory.md R84, U23). Safe. -/
  | noTlb
  /-- A fetch through a cacheable address of a word a store has written; raised by the fetch
  (20_memory.md R88, U20). Safe. -/
  | staleCode
  /-- STUCK: an access to a physical address where the platform has placed nothing, or a store where it
  has placed nothing writable; raised by fetches, loads and stores (20_memory.md R77). Safe. -/
  | unpopulated
  deriving DecidableEq, Repr

/-- The decoder, or the meaning, rejects the instruction (70_reset_and_hazards.md R346, "refuse"). Each one
is safe. -/
inductive Refusal where
  /-- The instruction has no meaning in the model; raised by exec. Safe. -/
  | notModelled (mnemonic : String)
  /-- A non-zero unused field; raised by the step (30_encoding.md R117, U4). Safe. -/
  | unusedField
  /-- LWC0, SWC0, CFC0 or CTC0 with coprocessor 0 usable; raised by their meanings
  (47_coprocessor.md R244, U9). Safe. -/
  | noCop0Path
  /-- JALR with rs = rd, not r0; raised by the step and by JALR (45_jump_branch.md R227, U12). Safe. -/
  | jalrSameRegister
  /-- BLTZAL or BGEZAL with rs = 31; raised by the step and by the two (45_jump_branch.md R227, U13). Safe. -/
  | linkBranchOn31
  /-- BC0F or BC0T with coprocessor 0 usable; raised by the two (47_coprocessor.md R247, U28). Safe. -/
  | cop0Condition
  /-- Fewer than four bytes were given to the decoder; no step raises it (30_encoding.md R100). Safe. -/
  | tooShort
  deriving DecidableEq, Repr

/-- What a step of this machine answers. -/
abbrev Result (σ : Type) := Host.Outcome σ Fault Refusal

/-! ## Exceptions and accesses -/

/-- The exceptions of 60_exceptions.md R270, each with what it records: the bad virtual address, for TLBL
and TLBS whether it is a refill (20_memory.md R80), for CpU the coprocessor number. -/
inductive Exc where
  | int
  | mod (va : Word)
  | tlbl (va : Word) (refill : Bool)
  | tlbs (va : Word) (refill : Bool)
  | adel (va : Word)
  | ades (va : Word)
  | ibe
  | dbe
  | sys
  | bp
  | ri
  | cpu (z : BitVec 2)
  | ov
  deriving DecidableEq, Repr

/-- The kind of a memory access (20_memory.md R78, R77). -/
inductive AccessKind where
  | fetch
  | load
  | store
  deriving DecidableEq, Repr

/-- What an access to memory or a translation answers: a value, an exception, or a stop of the model. -/
inductive Access (α : Type) where
  | done (a : α)
  | trap (e : Exc)
  | stop (f : Fault)
  deriving DecidableEq, Repr

/-! ## Memory -/

/-- Physical memory: the bytes that differ from what an unlisted address reads as, by address
(10_state.md R46). -/
abbrev Memory := List Host.Cell

/-- What an address that is not listed reads as. DESIGN CHOICE: the spec leaves the contents of memory to
the platform (10_state.md R48, decision D30; log 5). Unsafe. -/
def unlistedByte : Byte := 0#8

/-- Addresses strictly rising from lo on, each below 2^32, and no entry that reads as an unlisted one. -/
def Memory.wfFrom : Nat → Memory → Bool
  | _, [] => true
  | lo, (a, v) :: m => decide (lo ≤ a) && decide (a < 2 ^ 32) && v != unlistedByte && Memory.wfFrom (a + 1) m

/-- The one canonical form of a memory: equal memories are equal lists. -/
def Memory.wf (m : Memory) : Bool := Memory.wfFrom 0 m

/-- A span of physical addresses. -/
structure Span where
  base : Nat
  size : Nat
  deriving DecidableEq, Repr

/-- The platform's answers to an access, as plain data: which physical addresses are populated, which of
them no store can write, and where the predicate BusError holds for each kind of access
(00_scope.md R6, 20_memory.md R76, R77; log 6). No step changes it. -/
structure Platform where
  populated : List Span
  readOnly : List Span
  fetchErrors : List Span
  loadErrors : List Span
  storeErrors : List Span
  deriving DecidableEq, Repr

/-! ## Coprocessor 0 -/

/-- A TLB entry: a high half with the layout of EntryHi and a low half with the layout of EntryLo
(10_state.md R43). -/
structure TlbEntry where
  hi : Word
  lo : Word
  deriving DecidableEq, Repr

/-- The registers of coprocessor 0 (10_state.md R31 to R40), each the whole 32-bit word. PRId is a constant
(Config.pridValue). -/
structure Cp0 where
  /-- Register 0 (R32). -/
  index : Word
  /-- Register 1 (R33): every step takes a new value (log 9). -/
  random : Word
  /-- Register 2 (R34). -/
  entryLo : Word
  /-- Register 4 (R35). -/
  context : Word
  /-- Register 8 (R36). -/
  badVAddr : Word
  /-- Register 10 (R37). -/
  entryHi : Word
  /-- Register 12 (R38). -/
  sr : Word
  /-- Register 13 (R39). -/
  cause : Word
  /-- Register 14 (R40). -/
  epc : Word
  deriving DecidableEq, Repr

/-! ## The state -/

/-- The state of the machine (10_state.md R20 to R47) with the three fields of the model's own that stand
for the environment: intLines, platform and tick. -/
structure State where
  /-- The general registers (R20); read and written only through State.x and State.setX (R21). -/
  regs : Vector Word 32
  /-- HI (R24). -/
  hi : Word
  /-- LO (R24). -/
  lo : Word
  /-- The address of the instruction about to execute (R25). -/
  pc : Word
  /-- The address of the instruction after it (R26). -/
  npc : Word
  /-- The instruction at pc stands in a delay slot (R26). -/
  slot : Bool
  /-- The register the previous instruction loaded (R29). -/
  ld : Option Reg
  /-- Further instructions that may not write HI (R29). -/
  hiAge : Nat
  /-- Further instructions that may not write LO (R29). -/
  loAge : Nat
  /-- Coprocessor 0 (R31). -/
  cp0 : Cp0
  /-- The TLB (R43). -/
  tlb : Vector TlbEntry Config.tlbEntries
  /-- The state of coprocessor 2, of unknown shape (R44; log 4). -/
  c2 : Nat
  /-- Physical memory (R46). -/
  mem : Memory
  /-- W, the physical words stores have written since launch, strictly rising (20_memory.md R88; log 24). -/
  written : List Nat
  /-- The model's own: the six interrupt lines at this and the following steps (60_exceptions.md R280; log 7). -/
  intLines : List (BitVec 6)
  /-- The model's own: the platform parameters (log 6). -/
  platform : Platform
  /-- The model's own: the number of steps taken, to which free values are applied (log 8). -/
  tick : Nat
  deriving DecidableEq, Repr

/-! ## Reset -/

/-- A TLB entry at reset. DESIGN CHOICE: entry i holds page i of kseg0, which is never looked up, and is not
valid, as 70_reset_and_hazards.md R323 step 5 advises software to leave it (log 3). Unsafe. -/
def resetTlbEntry (i : Fin Config.tlbEntries) : TlbEntry := { hi := BitVec.ofNat 20 (0x80000 + i.val) ++ 0#12, lo := 0#32 }

/-- The registers of coprocessor 0 at reset: SR.BEV = 1, KUc = IEc = SwC = TS = 0 and Random = 63
(10_state.md R48). DESIGN CHOICE: every other field is 0 (log 2). Unsafe. -/
def resetCp0 : Cp0 :=
  { index := 0#32, random := 0x00003F00#32, entryLo := 0#32, context := 0#32, badVAddr := 0#32,
    entryHi := 0#32, sr := 0x00400000#32, cause := 0#32, epc := 0#32 }

/-- The platform at reset. DESIGN CHOICE: total memory and no bus error, the closed program of
92_eei_decisions.md D30 (log 6). Unsafe. -/
def resetPlatform : Platform :=
  { populated := [{ base := 0, size := 2 ^ 32 }], readOnly := [], fetchErrors := [], loadErrors := [], storeErrors := [] }

/-- The machine right after reset (10_state.md R48, 70_reset_and_hazards.md R320). DESIGN CHOICE: what the
spec leaves unspecified is 0 (logs 1 to 8, 24). Unsafe. -/
def State.reset : State :=
  { regs := Vector.replicate 32 0#32, hi := 0#32, lo := 0#32,
    pc := Config.resetPc, npc := Config.resetPc + 4#32, slot := false, ld := none, hiAge := 0, loAge := 0,
    cp0 := resetCp0, tlb := Vector.ofFn resetTlbEntry, c2 := 0, mem := [], written := [],
    intLines := [], platform := resetPlatform, tick := 0 }

end Sys2Proof.Machine
end

