-- ==== Sys2Proof/Machine/Flags.lean ====
section
/-! DEFINITION. The hardware has no flags (10_state.md R30): overflow is a trap and comparisons deliver a
register value. This file holds those conditions and results, and the fields of SR and Cause that stand
where another machine has flags (10_state.md R38, R39). -/

namespace Sys2Proof.Machine

/-! ## Overflow, comparisons, multiplication and division -/

/-- An exact integer fits 32-bit two's complement (41_computational_immediate.md R161). -/
def fitsWord (n : Int) : Bool := decide (-(2 ^ 31) ≤ n) && decide (n ≤ 2 ^ 31 - 1)

/-- The exact signed sum, when it fits 32 bits (41_computational_immediate.md R161, 42_three_operand_register.md R171). -/
def addTrapping (a b : Word) : Option Word :=
  if fitsWord (a.toInt + b.toInt) then some (BitVec.ofInt 32 (a.toInt + b.toInt)) else none

/-- The exact signed difference, when it fits 32 bits (42_three_operand_register.md R173). -/
def subTrapping (a b : Word) : Option Word :=
  if fitsWord (a.toInt - b.toInt) then some (BitVec.ofInt 32 (a.toInt - b.toInt)) else none

/-- 1 when a is less than b as signed numbers, else 0 (41_computational_immediate.md R163). -/
def setLessSigned (a b : Word) : Word := if a.toInt < b.toInt then 1#32 else 0#32

/-- 1 when a is less than b as unsigned numbers, else 0 (41_computational_immediate.md R164). -/
def setLessUnsigned (a b : Word) : Word := if a.toNat < b.toNat then 1#32 else 0#32

/-- The conditions of the branches against zero (45_jump_branch.md R229). -/
def isNegative (a : Word) : Bool := a.msb

/-- (hi, lo) of a signed product (44_multiply_divide.md R195). -/
def mulSigned (a b : Word) : Word × Word :=
  let p := BitVec.ofInt 64 (a.toInt * b.toInt)
  (p.extractLsb' 32 32, p.extractLsb' 0 32)

/-- (hi, lo) of an unsigned product (44_multiply_divide.md R196). -/
def mulUnsigned (a b : Word) : Word × Word :=
  let p := BitVec.ofNat 64 (a.toNat * b.toNat)
  (p.extractLsb' 32 32, p.extractLsb' 0 32)

/-- (hi, lo) of a signed division: the quotient rounds toward zero (44_multiply_divide.md R197, R199). -/
def divSigned (a b : Word) : Word × Word :=
  if b = 0#32 || (a == 0x80000000#32 && b == 0xFFFFFFFF#32) then Config.divCorner .signed a b
  else
    let q := a.toInt.tdiv b.toInt
    (BitVec.ofInt 32 (a.toInt - q * b.toInt), BitVec.ofInt 32 q)

/-- (hi, lo) of an unsigned division (44_multiply_divide.md R198, R199). -/
def divUnsigned (a b : Word) : Word × Word :=
  if b = 0#32 then Config.divCorner .unsigned a b
  else (BitVec.ofNat 32 (a.toNat % b.toNat), BitVec.ofNat 32 (a.toNat / b.toNat))

/-! ## SR (10_state.md R38) -/

/-- IEc, bit 0: interrupts may be taken. -/
def srIec (sr : Word) : Bool := sr.getLsbD 0

/-- KUc, bit 1: user mode. -/
def srKuc (sr : Word) : Bool := sr.getLsbD 1

/-- IM, bits 15:8: the interrupt mask. -/
def srIm (sr : Word) : BitVec 8 := sr.extractLsb' 8 8

/-- IsC, bit 16: isolate cache. -/
def srIsc (sr : Word) : Bool := sr.getLsbD 16

/-- SwC, bit 17: swap caches. -/
def srSwc (sr : Word) : Bool := sr.getLsbD 17

/-- BEV, bit 22: bootstrap exception vectors. -/
def srBev (sr : Word) : Bool := sr.getLsbD 22

/-- RE, bit 25: reverse byte order in user mode. -/
def srRe (sr : Word) : Bool := sr.getLsbD 25

/-- CU[z], bit 28 + z: coprocessor z usable. -/
def srCu (sr : Word) (z : BitVec 2) : Bool := sr.getLsbD (28 + z.toNat)

/-- The bits an MTC0 to SR writes (48_cop0.md R258). -/
def srWriteMask : Word := 0xF247FF3F#32

/-- SR after an MTC0 of v (48_cop0.md R250, R258). -/
def srWrite (sr v : Word) : Word := (sr &&& ~~~srWriteMask) ||| (v &&& srWriteMask)

/-- SR after exception entry: current to previous, previous to old, kernel mode with interrupts off
(60_exceptions.md R290). -/
def srPush (sr : Word) : Word := sr.extractLsb' 6 26 ++ sr.extractLsb' 0 4 ++ 0#2

/-- SR after RFE: previous to current, old to previous, old unchanged (48_cop0.md R256). -/
def srPop (sr : Word) : Word := sr.extractLsb' 4 28 ++ sr.extractLsb' 2 4

/-- SR as MFC0 reads it: bit 19 (CM) is the value given (48_cop0.md R251, U15). -/
def srRead (sr : Word) (cm : BitVec 1) : Word := sr.extractLsb' 20 12 ++ cm ++ sr.extractLsb' 0 19

/-! ## Cause (10_state.md R39) -/

/-- IP, bits 15:8: the interrupt requests. -/
def causeIp (cause : Word) : BitVec 8 := cause.extractLsb' 8 8

/-- Cause with IP[7:2] at the six lines (10_state.md R28 S1). -/
def causeWithLines (cause : Word) (lines : BitVec 6) : Word :=
  cause.extractLsb' 16 16 ++ lines ++ cause.extractLsb' 0 10

/-- Cause after an MTC0 of v: bits 9:8 only (48_cop0.md R250). -/
def causeWrite (cause v : Word) : Word := cause.extractLsb' 10 22 ++ v.extractLsb' 8 2 ++ cause.extractLsb' 0 8

/-- The code of an exception (60_exceptions.md R270). -/
def Exc.code : Exc → BitVec 5
  | .int => 0#5
  | .mod _ => 1#5
  | .tlbl _ _ => 2#5
  | .tlbs _ _ => 3#5
  | .adel _ => 4#5
  | .ades _ => 5#5
  | .ibe => 6#5
  | .dbe => 7#5
  | .sys => 8#5
  | .bp => 9#5
  | .ri => 10#5
  | .cpu _ => 11#5
  | .ov => 12#5

/-- CE after exception entry: the coprocessor number of a CpU, otherwise unchanged (60_exceptions.md R290, U27). -/
def causeCeAfter (cause : Word) : Exc → BitVec 2
  | .cpu z => z
  | _ => cause.extractLsb' 28 2

/-- Cause after the entry of e: BD, CE and ExcCode; IP and the reserved bits unchanged (60_exceptions.md R290). -/
def causeEnter (cause : Word) (inSlot : Bool) (e : Exc) : Word :=
  BitVec.ofBool inSlot ++ cause.extractLsb' 30 1 ++ causeCeAfter cause e ++ cause.extractLsb' 7 21 ++ e.code ++
    cause.extractLsb' 0 2

/-- The interrupt condition (60_exceptions.md R280). -/
def interruptCondition (sr cause : Word) : Bool := srIec sr && (causeIp cause &&& srIm sr) != 0#8

end Sys2Proof.Machine
end

