-- ==== Sys2Proof/Machine/Operands.lean ====
section
/-! DEFINITION. How operands are formed (30_encoding.md R108): immediates, effective addresses, branch and
jump targets, link values, shift amounts, and the byte merges of the left and right accesses. -/

namespace Sys2Proof.Machine

/-- A 16-bit immediate or offset, sign-extended (30_encoding.md R108). -/
def signExtImm (imm : Half) : Word := imm.signExtend 32

/-- A logical immediate, zero-extended (30_encoding.md R108). -/
def zeroExtImm (imm : Half) : Word := imm.setWidth 32

/-- The upper immediate of LUI (30_encoding.md R108). -/
def upperImm (imm : Half) : Word := imm ++ 0#16

/-- base plus sign-extended offset, modulo 2^32: the one addressing mode (40_load_store.md R140). -/
def effectiveAddress (base : Word) (offset : Half) : Word := base + signExtImm offset

/-- The 18-bit signed byte offset of a branch (30_encoding.md R108). -/
def branchOffset (imm : Half) : Word := (imm ++ 0#2).signExtend 32

/-- The target of a branch at pc (45_jump_branch.md R223). -/
def branchTarget (pc : Word) (imm : Half) : Word := pc + 4#32 + branchOffset imm

/-- The target of a J or JAL at pc, in the 256 MB region of its delay slot (45_jump_branch.md R224). -/
def jumpTarget (pc : Word) (target : BitVec 26) : Word := (pc + 4#32).extractLsb' 28 4 ++ target ++ 0#2

/-- The link value of a jump or branch at pc (45_jump_branch.md R225). -/
def linkAddress (pc : Word) : Word := pc + 8#32

/-- The shift amount of the variable forms: the low five bits of a register (43_shift.md R185). -/
def shiftAmount (v : Word) : Nat := (v.extractLsb' 0 5).toNat

/-- The byte of an aligned word that an address names (40_load_store.md R146). -/
def byteIndex (va : Word) : Nat := (va.extractLsb' 0 2).toNat

/-- The address of the aligned word that holds va (20_memory.md R70). -/
def wordAddress (va : Word) : Word := va.extractLsb' 2 30 ++ 0#2

/-- A byte, sign-extended (40_load_store.md R141). -/
def signExtByte (v : Word) : Word := (v.setWidth 8).signExtend 32

/-- A halfword, sign-extended (40_load_store.md R143). -/
def signExtHalf (v : Word) : Word := (v.setWidth 16).signExtend 32

/-- The merge of LWL: the aligned word shifted left so that byte k is leftmost, over the low bytes of the
register (40_load_store.md R146). -/
def mergeLeft (k : Nat) (w old : Word) : Word :=
  (w <<< (8 * (3 - k))) ||| (old &&& BitVec.ofNat 32 (2 ^ (8 * (3 - k)) - 1))

/-- The merge of LWR: the aligned word shifted right so that byte k is rightmost, under the high bytes of
the register (40_load_store.md R147). -/
def mergeRight (k : Nat) (w old : Word) : Word :=
  (w >>> (8 * k)) ||| (old &&& ~~~(0xFFFFFFFF#32 >>> (8 * k)))

/-- What SWL stores, low byte first: the register shifted right by 8*(3-k) (40_load_store.md R152). -/
def storeLeftValue (k : Nat) (v : Word) : Word := v >>> (8 * (3 - k))

/-- The low n bytes of a word, the least significant first (20_memory.md R64). -/
def lowBytes (v : Word) : Nat → List Byte
  | 0 => []
  | n + 1 => v.setWidth 8 :: lowBytes (v >>> 8) n

end Sys2Proof.Machine
end

