-- ==== Sys2Proof/Machine/Ops.lean ====
section
/-! DEFINITION. The named operations over registers, memory, the TLB and coprocessor 0; taking an exception
and returning from one; the hazard checks; the parts of the instruction cycle. -/

namespace Sys2Proof.Machine

/-! ## General registers -/

/-- The value of general register r; R0 reads as 0 (10_state.md R21). -/
def State.x (s : State) (r : Reg) : Word := if r = 0#5 then 0#32 else s.regs[r.toNat]'r.isLt

/-- A write to general register r; a write to R0 is discarded (10_state.md R21). -/
def State.setX (s : State) (r : Reg) (v : Word) : State :=
  if r = 0#5 then s else { s with regs := s.regs.set r.toNat v r.isLt }

/-! ## Physical memory -/

/-- The byte at a physical address. -/
def Memory.read : Memory → Nat → Byte
  | [], _ => unlistedByte
  | (k, v) :: m, a => if k = a then v else Memory.read m a

/-- The memory without an entry for an address. -/
def Memory.erase : Memory → Nat → Memory
  | [], _ => []
  | (k, v) :: m, a => if k = a then Memory.erase m a else (k, v) :: Memory.erase m a

/-- The memory with an entry put in its place by address. -/
def Memory.insert : Memory → Nat → Byte → Memory
  | [], a, v => [(a, v)]
  | (k, x) :: m, a, v => if a < k then (a, v) :: (k, x) :: m else (k, x) :: Memory.insert m a v

/-- A write of one byte, which keeps the canonical form. -/
def Memory.write (m : Memory) (a : Nat) (v : Byte) : Memory :=
  if v = unlistedByte then Memory.erase m a else Memory.insert (Memory.erase m a) a v

/-- A write of bytes at a physical address and the ones after it (20_memory.md R64). -/
def Memory.writeBytes : Memory → Word → List Byte → Memory
  | m, _, [] => m
  | m, pa, b :: bs => Memory.writeBytes (Memory.write m pa.toNat b) (pa + 1#32) bs

/-- The byte at a physical address (20_memory.md R64). -/
def Memory.readByte (m : Memory) (pa : Word) : Byte := Memory.read m pa.toNat

/-- The halfword at a physical address (20_memory.md R64). -/
def Memory.readHalf (m : Memory) (pa : Word) : Half := halfOfBytes (Memory.readByte m pa) (Memory.readByte m (pa + 1#32))

/-- The word at a physical address (20_memory.md R64). -/
def Memory.readWord (m : Memory) (pa : Word) : Word :=
  wordOfBytes (Memory.readByte m pa) (Memory.readByte m (pa + 1#32)) (Memory.readByte m (pa + 2#32))
    (Memory.readByte m (pa + 3#32))

/-- The value of n bytes (n in 1, 2, 4), zero-extended to a word (20_memory.md R72). -/
def Memory.readSize (m : Memory) (pa : Word) : Nat → Word
  | 1 => (Memory.readByte m pa).setWidth 32
  | 2 => (Memory.readHalf m pa).setWidth 32
  | _ => Memory.readWord m pa

/-! ## The platform and the set W -/

/-- The address lies in the span. -/
def Span.has (sp : Span) (a : Nat) : Bool := decide (sp.base ≤ a) && decide (a < sp.base + sp.size)

/-- The address lies in one of the spans. -/
def inSpans (l : List Span) (a : Nat) : Bool := l.any fun sp => sp.has a

/-- The n bytes at pa are all populated (20_memory.md R72). -/
def Platform.populatedAt (p : Platform) (pa : Word) (n : Nat) : Bool :=
  (List.range n).all fun i => inSpans p.populated (pa + BitVec.ofNat 32 i).toNat

/-- The n bytes at pa are all populated and writable (20_memory.md R73). -/
def Platform.writableAt (p : Platform) (pa : Word) (n : Nat) : Bool :=
  p.populatedAt pa n && (List.range n).all fun i => !inSpans p.readOnly (pa + BitVec.ofNat 32 i).toNat

/-- BusError(pa, kind) (20_memory.md R77). -/
def Platform.busError (p : Platform) (pa : Word) : AccessKind → Bool
  | .fetch => inSpans p.fetchErrors pa.toNat
  | .load => inSpans p.loadErrors pa.toNat
  | .store => inSpans p.storeErrors pa.toNat

/-- W with a physical word recorded (20_memory.md R73); the list stays strictly rising. -/
def recordWritten : List Nat → Nat → List Nat
  | [], a => [a]
  | k :: l, a => if a < k then a :: k :: l else if a = k then k :: l else k :: recordWritten l a

/-! ## The TLB and address translation -/

/-- The entry matches a page and an address-space identifier (20_memory.md R80). -/
def TlbEntry.hits (e : TlbEntry) (vpn : BitVec 20) (asid : BitVec 6) : Bool :=
  e.hi.extractLsb' 12 20 == vpn && (e.lo.getLsbD 8 || e.hi.extractLsb' 6 6 == asid)

/-- N, bit 11 of EntryLo: non-cacheable (10_state.md R34). -/
def TlbEntry.nonCacheable (e : TlbEntry) : Bool := e.lo.getLsbD 11

/-- D, bit 10 of EntryLo: the page may be written (10_state.md R34). -/
def TlbEntry.dirty (e : TlbEntry) : Bool := e.lo.getLsbD 10

/-- V, bit 9 of EntryLo: valid (10_state.md R34). -/
def TlbEntry.valid (e : TlbEntry) : Bool := e.lo.getLsbD 9

/-- PFN, bits 31:12 of EntryLo (10_state.md R34). -/
def TlbEntry.pfn (e : TlbEntry) : BitVec 20 := e.lo.extractLsb' 12 20

/-- The entries that match a page under an address-space identifier (20_memory.md R80, 48_cop0.md R255). -/
def tlbHits (tlb : Vector TlbEntry Config.tlbEntries) (vpn : BitVec 20) (asid : BitVec 6) : List (Fin Config.tlbEntries) :=
  (List.finRange Config.tlbEntries).filter fun i => (tlb.get i).hits vpn asid

/-- EntryHi.ASID, bits 11:6 (10_state.md R37). -/
def asidOf (entryHi : Word) : BitVec 6 := entryHi.extractLsb' 6 6

/-- The virtual page number of an address or of EntryHi, bits 31:12 (10_state.md R37). -/
def vpnOf (va : Word) : BitVec 20 := va.extractLsb' Config.pageBits 20

/-- The TLB exception of a miss or an invalid entry (20_memory.md R80). -/
def tlbMiss (kind : AccessKind) (va : Word) (refill : Bool) : Exc :=
  match kind with
  | .store => .tlbs va refill
  | _ => .tlbl va refill

/-- The address error of an access (20_memory.md R67, R78). -/
def addressError (kind : AccessKind) (va : Word) : Exc :=
  match kind with
  | .store => .ades va
  | _ => .adel va

/-- A physical address and whether the access is cacheable. -/
structure Translated where
  pa : Word
  cacheable : Bool
  deriving DecidableEq, Repr

/-- A mapped access through the entry that matches (20_memory.md R80). -/
def throughEntry (e : TlbEntry) (va : Word) (kind : AccessKind) : Access Translated :=
  if !e.valid then .trap (tlbMiss kind va false)
  else if kind = .store && !e.dirty then .trap (.mod va)
  else .done { pa := e.pfn ++ va.extractLsb' 0 Config.pageBits, cacheable := !e.nonCacheable }

/-- Translation in the mapped segments (20_memory.md R80). -/
def translateMapped (tlb : Vector TlbEntry Config.tlbEntries) (entryHi va : Word) (kind : AccessKind) : Access Translated :=
  match tlbHits tlb (vpnOf va) (asidOf entryHi) with
  | [] => .trap (tlbMiss kind va (!va.msb))
  | [i] => throughEntry (tlb.get i) va kind
  | _ => .stop .multipleTlbMatch

/-- The mapped segments of a part without a TLB: kuseg is its own physical address, and kseg2 has no meaning
(20_memory.md R84, U23; log 27). -/
def translateUntranslated (va : Word) : Access Translated :=
  if va.msb then .stop .noTlb else .done { pa := va, cacheable := true }

/-- Translate(va, kind): the privilege check, then the segments (20_memory.md R78, R79, R80, R84). -/
def translateAddress (s : State) (va : Word) (kind : AccessKind) : Access Translated :=
  if srKuc s.cp0.sr && va.msb then .trap (addressError kind va)
  else if va.extractLsb' 29 3 == 0b100#3 then .done { pa := 0#3 ++ va.extractLsb' 0 29, cacheable := true }
  else if va.extractLsb' 29 3 == 0b101#3 then .done { pa := 0#3 ++ va.extractLsb' 0 29, cacheable := false }
  else if Config.tlbPresent then translateMapped s.tlb s.cp0.entryHi va kind
  else translateUntranslated va

/-! ## Memory accesses (20_memory.md R72 to R75) -/

/-- The access continued with its value. -/
def Access.andThen {α β : Type} (a : Access α) (k : α → Access β) : Access β :=
  match a with
  | .done v => k v
  | .trap e => .trap e
  | .stop f => .stop f

/-- MemRead(va, n), n in 1, 2, 4, after the caller's alignment check (20_memory.md R72). -/
def memRead (s : State) (va : Word) (n : Nat) : Access Word :=
  (translateAddress s va .load).andThen fun t =>
    if srIsc s.cp0.sr then .done ((Config.isolatedLoad s.tick).setWidth (8 * n) |>.setWidth 32)
    else if s.platform.busError t.pa .load then .trap .dbe
    else if !s.platform.populatedAt t.pa n then .stop .unpopulated
    else .done (Memory.readSize s.mem t.pa n)

/-- MemWrite(va, n, v), n in 1 to 4, after the caller's alignment check (20_memory.md R73). -/
def memWrite (s : State) (va : Word) (n : Nat) (v : Word) : Access State :=
  (translateAddress s va .store).andThen fun t =>
    if srIsc s.cp0.sr then .done s
    else if s.platform.busError t.pa .store then .trap .dbe
    else if !s.platform.writableAt t.pa n then .stop .unpopulated
    else .done { s with mem := Memory.writeBytes s.mem t.pa (inByteOrder (lowBytes v n)),
                        written := recordWritten s.written (wordAddress t.pa).toNat }

/-- The alignment check of a load or store of n bytes (20_memory.md R66, R67, R75). -/
def checkAligned (kind : AccessKind) (va : Word) (n : Nat) : Access Unit :=
  if va.toNat % n = 0 then .done () else .trap (addressError kind va)

/-- Fetch(va) (20_memory.md R74). -/
def fetch (s : State) (va : Word) : Access Word :=
  (checkAligned .fetch va 4).andThen fun _ =>
    (translateAddress s va .fetch).andThen fun t =>
      if s.platform.busError t.pa .fetch then .trap .ibe
      else if !s.platform.populatedAt t.pa 4 then .stop .unpopulated
      else if t.cacheable && s.written.contains (wordAddress t.pa).toNat then .stop .staleCode
      else .done (Memory.readWord s.mem t.pa)

/-! ## Taking an exception and returning from one -/

/-- The bad virtual address an exception records in BadVAddr (60_exceptions.md R290 step 3). -/
def Exc.badAddress : Exc → Option Word
  | .mod va => some va
  | .tlbl va _ => some va
  | .tlbs va _ => some va
  | .adel va => some va
  | .ades va => some va
  | _ => none

/-- The address a TLB exception records in Context and EntryHi (20_memory.md R81). -/
def Exc.tlbAddress : Exc → Option Word
  | .mod va => some va
  | .tlbl va _ => some va
  | .tlbs va _ => some va
  | _ => none

/-- The exception is a UTLB miss: a refill on a kuseg address (60_exceptions.md R292). -/
def Exc.isUtlbMiss : Exc → Bool
  | .tlbl _ refill => refill
  | .tlbs _ refill => refill
  | _ => false

/-- Vector(E, info) (60_exceptions.md R292). -/
def vector (sr : Word) (e : Exc) : Word :=
  if e.isUtlbMiss then (if srBev sr then Config.vecUtlbBoot else Config.vecUtlbRam)
  else (if srBev sr then Config.vecGeneralBoot else Config.vecGeneralRam)

/-- Context with BadVPN, bits 20:2, loaded from va[30:12] (10_state.md R35). -/
def contextWithBadVpn (context va : Word) : Word :=
  context.extractLsb' 21 11 ++ va.extractLsb' 12 19 ++ context.extractLsb' 0 2

/-- EntryHi with VPN, bits 31:12, loaded from va[31:12] (10_state.md R37). -/
def entryHiWithVpn (entryHi va : Word) : Word := vpnOf va ++ entryHi.extractLsb' 0 12

/-- Coprocessor 0 after the entry of e for the instruction at a (60_exceptions.md R290 steps 1 to 4). -/
def Cp0.enter (c : Cp0) (e : Exc) (a : Word) (inSlot : Bool) : Cp0 :=
  { c with
    epc := if inSlot then a - 4#32 else a
    cause := causeEnter c.cause inSlot e
    badVAddr := e.badAddress.getD c.badVAddr
    context := match e.tlbAddress with
      | some va => contextWithBadVpn c.context va
      | none => c.context
    entryHi := match e.tlbAddress with
      | some va => entryHiWithVpn c.entryHi va
      | none => c.entryHi
    sr := srPush c.sr }

/-- ExceptionEntry for the instruction at pc: the whole state change of taking exception e
(60_exceptions.md R290). -/
def State.takeException (s : State) (e : Exc) : State :=
  { s with
    cp0 := s.cp0.enter e s.pc s.slot
    pc := vector s.cp0.sr e
    npc := vector s.cp0.sr e + 4#32
    slot := false
    ld := none }

/-- The return from exception's effect on SR (48_cop0.md R256). -/
def State.popStatus (s : State) : State := { s with cp0 := { s.cp0 with sr := srPop s.cp0.sr } }

/-! ## Completing an instruction (10_state.md R28 S5, S9) -/

/-- Step S9 for an instruction that is no jump and no load: pc, npc, slot, ld and the HI/LO counters. -/
def State.retire (s : State) : State :=
  { s with pc := s.npc, npc := s.npc + 4#32, slot := false, ld := none, hiAge := s.hiAge - 1, loAge := s.loAge - 1 }

/-- Step S9 for a load or a move from a coprocessor: the register rt is written and is in its load delay;
a load to r0 leaves no delay (70_reset_and_hazards.md R330, R331). -/
def State.retireLoad (s : State) (rt : Reg) (v : Word) : State :=
  { (s.setX rt v).retire with ld := if rt = 0#5 then none else some rt }

/-- Step S9 for a jump or branch: the next instruction stands in the delay slot, and the one after it is at
the target when the transfer is taken (45_jump_branch.md R222). -/
def State.retireJump (s : State) (taken : Bool) (target : Word) : State :=
  { s.retire with npc := if taken then target else s.npc + 4#32, slot := true }

/-- The outcome of an instruction that raises e (00_scope.md R9). -/
def raise (s : State) (e : Exc) : Result State := .next (s.takeException e)

/-- The outcome of an access that the instruction continues with; an exception is taken in s. -/
def Access.finish {α : Type} (a : Access α) (s : State) (k : α → Result State) : Result State :=
  match a with
  | .done v => k v
  | .trap e => raise s e
  | .stop f => .fault f

/-! ## The hazard checks (10_state.md R28 S6) -/

/-- The load-delay check on a source register (70_reset_and_hazards.md R330). -/
def State.delayed (s : State) (r : Reg) : Bool := s.ld == some r

/-- The rest of an instruction that reads the register r (70_reset_and_hazards.md R330). -/
def reading (s : State) (r : Reg) (k : Result State) : Result State := if s.delayed r then .fault .loadDelay else k

/-- The rest of a jump or branch, which may not stand in a delay slot (70_reset_and_hazards.md R334). -/
def outsideSlot (s : State) (k : Result State) : Result State := if s.slot then .fault .branchInDelaySlot else k

/-- The rest of an instruction that writes HI and LO (70_reset_and_hazards.md R332). -/
def hiLoFree (s : State) (hi lo : Bool) (k : Result State) : Result State :=
  if (hi && decide (0 < s.hiAge)) || (lo && decide (0 < s.loAge)) then .fault .hiLoHazard else k

/-! ## Coprocessors -/

/-- usable(z) (47_coprocessor.md R235). -/
def State.usable (s : State) (z : BitVec 2) : Bool := srCu s.cp0.sr z || (z == 0#2 && !srKuc s.cp0.sr)

/-- The rest of an instruction for coprocessor z, or CpU when z is not usable (47_coprocessor.md R235). -/
def withCop (s : State) (z : BitVec 2) (k : Result State) : Result State :=
  if s.usable z then k else raise s (.cpu z)

/-- Index as MFC0 reads it and as MTC0 and TLBP leave it (10_state.md R32). -/
def indexWord (p : BitVec 1) (i : BitVec 6) : Word := p ++ 0#17 ++ i ++ 0#8

/-- Index.P, bit 31 (10_state.md R32). -/
def indexP (v : Word) : BitVec 1 := v.extractLsb' 31 1

/-- Index.Index or Random.Random, bits 13:8 (10_state.md R32, R33). -/
def indexOf (v : Word) : BitVec 6 := v.extractLsb' 8 6

/-- Random as MFC0 reads it (10_state.md R33). -/
def randomWord (i : BitVec 6) : Word := 0#18 ++ i ++ 0#8

/-- The value of coprocessor 0 register rd as MFC0 reads it; none for a reserved number (48_cop0.md R251). -/
def readCp0 (s : State) (rd : Reg) : Option Word :=
  match rd.toNat with
  | 0 => some (indexWord (indexP s.cp0.index) (indexOf s.cp0.index))
  | 1 => some (randomWord (indexOf s.cp0.random))
  | 2 => some s.cp0.entryLo
  | 4 => some s.cp0.context
  | 8 => some s.cp0.badVAddr
  | 10 => some s.cp0.entryHi
  | 12 => some (srRead s.cp0.sr (Config.srCacheMiss s.tick))
  | 13 => some s.cp0.cause
  | 14 => some s.cp0.epc
  | 15 => some Config.pridValue
  | _ => none

/-- Coprocessor 0 after an MTC0 of v to register rd; none for a reserved number (48_cop0.md R250). -/
def writeCp0 (s : State) (rd : Reg) (v : Word) : Option Cp0 :=
  match rd.toNat with
  | 0 => some { s.cp0 with index := indexWord (Config.indexProbe s.tick) (indexOf v) }
  | 1 => some s.cp0
  | 2 => some { s.cp0 with entryLo := v.extractLsb' 8 24 ++ 0#8 }
  | 4 => some { s.cp0 with context := v.extractLsb' 21 11 ++ s.cp0.context.extractLsb' 0 21 }
  | 8 => some s.cp0
  | 10 => some { s.cp0 with entryHi := v.extractLsb' 6 26 ++ 0#6 }
  | 12 => some { s.cp0 with sr := srWrite s.cp0.sr v }
  | 13 => some { s.cp0 with cause := causeWrite s.cp0.cause v }
  | 14 => some s.cp0
  | 15 => some s.cp0
  | _ => none

/-- The number of a TLB entry, from the 6-bit field of Index or Random. -/
def entryNumber (i : BitVec 6) : Fin Config.tlbEntries := ⟨i.toNat, i.isLt⟩

/-- The TLB with EntryHi and EntryLo written to entry i (48_cop0.md R253). -/
def State.writeTlb (s : State) (i : BitVec 6) : State :=
  { s with tlb := s.tlb.set (entryNumber i).val { hi := s.cp0.entryHi, lo := s.cp0.entryLo } (entryNumber i).isLt }

/-- The rest of a TLB instruction, which a part without a TLB does not have (20_memory.md R84, U23; log 27). -/
def withTlb (k : Result State) : Result State := if Config.tlbPresent then k else .fault .noTlb

/-- EntryHi and EntryLo read from TLB entry i (48_cop0.md R252). -/
def State.readTlb (s : State) (i : BitVec 6) : State :=
  { s with cp0 := { s.cp0 with entryHi := (s.tlb.get (entryNumber i)).hi, entryLo := (s.tlb.get (entryNumber i)).lo } }

/-! ## The instruction cycle (10_state.md R28) -/

/-- The six lines at this step; after the last listed value no line is asserted (log 7). -/
def linesNow (l : List (BitVec 6)) : BitVec 6 := l.headD 0#6

/-- RandomDraw at step t: a value in 8..63 (10_state.md R33). -/
def randomAt (t : Nat) : BitVec 6 := BitVec.ofNat 6 (8 + (Config.randomDraw t).val)

/-- Step S1: Cause.IP[7:2] takes the lines; Random takes a new value; the step counter advances. -/
def State.beginStep (s : State) : State :=
  { s with
    cp0 := { s.cp0 with cause := causeWithLines s.cp0.cause (linesNow s.intLines), random := randomWord (randomAt s.tick) }
    intLines := s.intLines.tail
    tick := s.tick + 1 }

/-- Step S2: the interrupt condition holds (60_exceptions.md R280). -/
def State.interruptPending (s : State) : Bool := interruptCondition s.cp0.sr s.cp0.cause

/-- What the step does with a word the decoder rejects. The undefined sub-operations of a coprocessor raise
CpU when it is not usable (47_coprocessor.md R235); otherwise 93_implementation_defined.md says fault or
refuse. -/
def rejectWord (s : State) : DecodeError → Result State
  | .tooShort => .refused .tooShort
  | .unusedField => .refused .unusedField
  | .bcondZ => .fault .unassignedBcondZ
  | .copSub z => withCop s z (.fault (if z = 1#2 ∨ z = 3#2 then .absentCoprocessor else .unassignedCopSub))
  | .cop0Function => withCop s 0#2 (.fault .unassignedCop0Function)
  | .jalrSameRegister => .refused .jalrSameRegister
  | .linkBranchOn31 => .refused .linkBranchOn31

/-- Where the word of an instruction is placed for the next fetch: the physical address of pc, or none
where pc does not translate. -/
def fetchAddress (s : State) : Option Word :=
  match translateAddress s s.pc .fetch with
  | .done t => some t.pa
  | _ => none

/-- The state with a word placed at a physical address as part of the loaded program: the word is in
memory and is not in W (log 21). -/
def State.placeWord (s : State) (pa w : Word) : State :=
  { s with mem := Memory.writeBytes s.mem pa (bytesOfWord w),
           written := s.written.filter fun a => a != (wordAddress pa).toNat }

end Sys2Proof.Machine
end

