-- ==== Sys2Proof/Machine/Cop0.lean ====
section
/-! DEFINITION. The system control coprocessor instructions (48_cop0.md R250 to R260). -/

namespace Sys2Proof.Machine

/-- MTC0 (48_cop0.md R250, R258). Setting SR.RE or SR.SwC, and a reserved register, are faults (U16, U24, U18). -/
def execMtc0 (rt rd : Reg) (s : State) : Result State :=
  reading s rt <| withCop s 0#2 <|
    if rd = 12#5 && srRe (s.x rt) then .fault .reverseEndian
    else if rd = 12#5 && srSwc (s.x rt) then .fault .swapCaches
    else
      match writeCp0 s rd (s.x rt) with
      | some c => .next { s.retire with cp0 := c }
      | none => .fault .reservedCp0Register

/-- MFC0, delayed like a load (48_cop0.md R251); a reserved register is a fault (U18). -/
def execMfc0 (rt rd : Reg) (s : State) : Result State :=
  withCop s 0#2 <|
    match readCp0 s rd with
    | some v => .next (s.retireLoad rt v)
    | none => .fault .reservedCp0Register

/-- TLBR (48_cop0.md R252). -/
def execTlbr (s : State) : Result State := withCop s 0#2 <| withTlb <| .next (s.readTlb (indexOf s.cp0.index)).retire

/-- TLBWI (48_cop0.md R253). -/
def execTlbwi (s : State) : Result State := withCop s 0#2 <| withTlb <| .next (s.writeTlb (indexOf s.cp0.index)).retire

/-- TLBWR: the entry is the one Random names, a free value in 8..63 (48_cop0.md R254). -/
def execTlbwr (s : State) : Result State := withCop s 0#2 <| withTlb <| .next (s.writeTlb (indexOf s.cp0.random)).retire

/-- TLBP (48_cop0.md R255). With no match the Index field is a free value (U14); with several it is a fault (U19). -/
def execTlbp (s : State) : Result State :=
  withCop s 0#2 <| withTlb <|
    match tlbHits s.tlb (vpnOf s.cp0.entryHi) (asidOf s.cp0.entryHi) with
    | [] => .next { s.retire with cp0 := { s.cp0 with index := indexWord 1#1 (Config.indexField s.tick) } }
    | [i] => .next { s.retire with cp0 := { s.cp0 with index := indexWord 0#1 (BitVec.ofNat 6 i.val) } }
    | _ => .fault .multipleTlbMatch

/-- RFE (48_cop0.md R256). -/
def execRfe (s : State) : Result State := withCop s 0#2 <| .next s.popStatus.retire

end Sys2Proof.Machine
end

