-- ==== Sys2Proof/Machine/JumpBranch.lean ====
section
/-! DEFINITION. The jump and branch instructions (45_jump_branch.md R210 to R229). -/

namespace Sys2Proof.Machine

/-- The shape of a branch: the delay slot executes, then the target when taken (45_jump_branch.md R222, R223). -/
def branchWhen (taken : Bool) (offset : Half) (s : State) : Result State :=
  .next (s.retireJump taken (branchTarget s.pc offset))

/-- The shape of the branches against zero (45_jump_branch.md R229). -/
def branchZero (cond : Word → Bool) (rs : Reg) (offset : Half) (s : State) : Result State :=
  reading s rs <| outsideSlot s <| branchWhen (cond (s.x rs)) offset s

/-- The shape of BLTZAL and BGEZAL: the condition is read before the link is written, and the link is written
whether or not the branch is taken (45_jump_branch.md R220, R221, R225); rs = 31 is refused (R227). -/
def branchZeroLink (cond : Word → Bool) (rs : Reg) (offset : Half) (s : State) : Result State :=
  if linkBranchOperandOk rs then
    reading s rs <| outsideSlot s <|
      branchWhen (cond (s.x rs)) offset (s.setX 31#5 (linkAddress s.pc))
  else .refused .linkBranchOn31

/-- J (45_jump_branch.md R210). -/
def execJ (target : BitVec 26) (s : State) : Result State :=
  outsideSlot s <| .next (s.retireJump true (jumpTarget s.pc target))

/-- JAL (45_jump_branch.md R211). -/
def execJal (target : BitVec 26) (s : State) : Result State :=
  outsideSlot s <| .next ((s.setX 31#5 (linkAddress s.pc)).retireJump true (jumpTarget s.pc target))

/-- JR; the target is not checked for alignment (45_jump_branch.md R212, R226). -/
def execJr (rs : Reg) (s : State) : Result State :=
  reading s rs <| outsideSlot s <| .next (s.retireJump true (s.x rs))

/-- JALR: the target is read before rd is written (45_jump_branch.md R213); rs = rd, not r0, is refused (R227). -/
def execJalr (rs rd : Reg) (s : State) : Result State :=
  if jalrOperandsOk rs rd then
    reading s rs <| outsideSlot s <| .next ((s.setX rd (linkAddress s.pc)).retireJump true (s.x rs))
  else .refused .jalrSameRegister

/-- BEQ (45_jump_branch.md R214). -/
def execBeq (rs rt : Reg) (offset : Half) (s : State) : Result State :=
  reading s rs <| reading s rt <| outsideSlot s <| branchWhen (s.x rs == s.x rt) offset s

/-- BNE (45_jump_branch.md R215). -/
def execBne (rs rt : Reg) (offset : Half) (s : State) : Result State :=
  reading s rs <| reading s rt <| outsideSlot s <| branchWhen (s.x rs != s.x rt) offset s

/-- BLEZ (45_jump_branch.md R216). -/
def execBlez (rs : Reg) (offset : Half) (s : State) : Result State :=
  branchZero (fun v => isNegative v || v == 0#32) rs offset s

/-- BGTZ (45_jump_branch.md R217). -/
def execBgtz (rs : Reg) (offset : Half) (s : State) : Result State :=
  branchZero (fun v => !isNegative v && v != 0#32) rs offset s

/-- BLTZ (45_jump_branch.md R218). -/
def execBltz (rs : Reg) (offset : Half) (s : State) : Result State :=
  branchZero (fun v => isNegative v) rs offset s

/-- BGEZ (45_jump_branch.md R219). -/
def execBgez (rs : Reg) (offset : Half) (s : State) : Result State :=
  branchZero (fun v => !isNegative v) rs offset s

/-- BLTZAL (45_jump_branch.md R220). -/
def execBltzal (rs : Reg) (offset : Half) (s : State) : Result State :=
  branchZeroLink (fun v => isNegative v) rs offset s

/-- BGEZAL (45_jump_branch.md R221). -/
def execBgezal (rs : Reg) (offset : Half) (s : State) : Result State :=
  branchZeroLink (fun v => !isNegative v) rs offset s

end Sys2Proof.Machine
end

