-- ==== Sys2Proof/Machine/LoadStore.lean ====
section
/-! DEFINITION. The load and store instructions (40_load_store.md R140 to R156). -/

namespace Sys2Proof.Machine

/-- The shape of LB, LBU, LH, LHU and LW: the alignment check, the read of n bytes at base plus offset, the
extension, the delayed write of rt (40_load_store.md R140, R155, R156). -/
def loadSized (n : Nat) (extend : Word → Word) (rt base : Reg) (offset : Half) (s : State) : Result State :=
  reading s base <|
    let va := effectiveAddress (s.x base) offset
    ((checkAligned .load va n).andThen fun _ => memRead s va n).finish s fun v => .next (s.retireLoad rt (extend v))

/-- The shape of LWL and LWR: the read of the aligned word that holds va and its merge with rt, which the
load delay exempts (40_load_store.md R146, R147, R156). -/
def loadMerged (merge : Nat → Word → Word → Word) (rt base : Reg) (offset : Half) (s : State) : Result State :=
  reading s base <|
    let va := effectiveAddress (s.x base) offset
    (memRead s (wordAddress va) 4).finish s fun w => .next (s.retireLoad rt (merge (byteIndex va) w (s.x rt)))

/-- The shape of the stores: the write of the low n bytes of v at va (40_load_store.md R155). -/
def storeBytes (va : Word) (n : Nat) (v : Word) (s : State) : Result State :=
  (memWrite s va n v).finish s fun t => .next t.retire

/-- The shape of SB, SH and SW: the alignment check and the write of n bytes of rt (40_load_store.md R155). -/
def storeSized (n : Nat) (rt base : Reg) (offset : Half) (s : State) : Result State :=
  reading s base <| reading s rt <|
    let va := effectiveAddress (s.x base) offset
    (checkAligned .store va n).finish s fun _ => storeBytes va n (s.x rt) s

/-- LB (40_load_store.md R141). -/
def execLb (rt base : Reg) (offset : Half) (s : State) : Result State := loadSized 1 signExtByte rt base offset s

/-- LBU (40_load_store.md R142). -/
def execLbu (rt base : Reg) (offset : Half) (s : State) : Result State := loadSized 1 id rt base offset s

/-- LH (40_load_store.md R143). -/
def execLh (rt base : Reg) (offset : Half) (s : State) : Result State := loadSized 2 signExtHalf rt base offset s

/-- LHU (40_load_store.md R144). -/
def execLhu (rt base : Reg) (offset : Half) (s : State) : Result State := loadSized 2 id rt base offset s

/-- LW (40_load_store.md R145). -/
def execLw (rt base : Reg) (offset : Half) (s : State) : Result State := loadSized 4 id rt base offset s

/-- LWL (40_load_store.md R146). -/
def execLwl (rt base : Reg) (offset : Half) (s : State) : Result State := loadMerged mergeLeft rt base offset s

/-- LWR (40_load_store.md R147). -/
def execLwr (rt base : Reg) (offset : Half) (s : State) : Result State := loadMerged mergeRight rt base offset s

/-- SB (40_load_store.md R149). -/
def execSb (rt base : Reg) (offset : Half) (s : State) : Result State := storeSized 1 rt base offset s

/-- SH (40_load_store.md R150). -/
def execSh (rt base : Reg) (offset : Half) (s : State) : Result State := storeSized 2 rt base offset s

/-- SW (40_load_store.md R151). -/
def execSw (rt base : Reg) (offset : Half) (s : State) : Result State := storeSized 4 rt base offset s

/-- SWL: the bytes of the aligned word from its start to va take the high bytes of rt (40_load_store.md R152). -/
def execSwl (rt base : Reg) (offset : Half) (s : State) : Result State :=
  reading s base <| reading s rt <|
    let va := effectiveAddress (s.x base) offset
    storeBytes (wordAddress va) (byteIndex va + 1) (storeLeftValue (byteIndex va) (s.x rt)) s

/-- SWR: the bytes of the aligned word from va to its end take the low bytes of rt (40_load_store.md R153). -/
def execSwr (rt base : Reg) (offset : Half) (s : State) : Result State :=
  reading s base <| reading s rt <|
    let va := effectiveAddress (s.x base) offset
    storeBytes va (4 - byteIndex va) (s.x rt) s

end Sys2Proof.Machine
end

