-- ==== Sys2Proof/Machine/Coprocessor.lean ====
section
/-! DEFINITION. The generic coprocessor instructions for z = 0 to 3 (47_coprocessor.md R235 to R248). -/

namespace Sys2Proof.Machine

/-- The shape of LWCz up to the loaded word (47_coprocessor.md R236). -/
def copLoad (z : BitVec 2) (base : Reg) (offset : Half) (s : State) (k : Word → Result State) : Result State :=
  reading s base <| withCop s z <|
    let ea := effectiveAddress (s.x base) offset
    ((checkAligned .load ea 4).andThen fun _ => memRead s ea 4).finish s k

/-- The shape of SWCz up to the alignment check (47_coprocessor.md R237). -/
def copStore (z : BitVec 2) (base : Reg) (offset : Half) (s : State) (k : Word → Result State) : Result State :=
  reading s base <| withCop s z <|
    let ea := effectiveAddress (s.x base) offset
    (checkAligned .store ea 4).finish s fun _ => k ea

/-- The end of an instruction for an absent coprocessor that is marked usable (47_coprocessor.md R235, U8). -/
def absent : Result State := .fault .absentCoprocessor

/-- The end of an instruction that has no path in coprocessor 0 (47_coprocessor.md R244, U9). -/
def noPath : Result State := .refused .noCop0Path

/-- LWC2 (47_coprocessor.md R236). -/
def execLwc2 (rt base : Reg) (offset : Half) (s : State) : Result State :=
  copLoad 2#2 base offset s fun v => .next { s.retire with c2 := Config.cop2WriteData s.c2 rt v }

/-- The state of coprocessor 2 after an SWC2 of its register rt that ends in a bus error: as the read left it, or as
before the instruction, which the spec leaves open between 47_coprocessor.md R237 and 60_exceptions.md R271 (log 14). -/
def cop2AfterBusError (c2 : Nat) (rt : Reg) : Nat := if Config.swc2ReadStands then (Config.cop2ReadData c2 rt).2 else c2

/-- SWC2: the coprocessor register is read after the address checks and before the write (47_coprocessor.md R237);
what a bus error of that write leaves of the read is open (log 14). -/
def execSwc2 (rt base : Reg) (offset : Half) (s : State) : Result State :=
  copStore 2#2 base offset s fun ea =>
    (translateAddress s ea .store).finish s fun _ =>
      (memWrite s ea 4 (Config.cop2ReadData s.c2 rt).1).finish { s with c2 := cop2AfterBusError s.c2 rt } fun t =>
        .next { t.retire with c2 := (Config.cop2ReadData s.c2 rt).2 }

/-- MTC2 (47_coprocessor.md R238). -/
def execMtc2 (rt rd : Reg) (s : State) : Result State :=
  reading s rt <| withCop s 2#2 <| .next { s.retire with c2 := Config.cop2WriteData s.c2 rd (s.x rt) }

/-- MFC2 (47_coprocessor.md R239, R248). -/
def execMfc2 (rt rd : Reg) (s : State) : Result State :=
  withCop s 2#2 <|
    .next { s.retireLoad rt (Config.cop2ReadData s.c2 rd).1 with c2 := (Config.cop2ReadData s.c2 rd).2 }

/-- CTC2 (47_coprocessor.md R240). -/
def execCtc2 (rt rd : Reg) (s : State) : Result State :=
  reading s rt <| withCop s 2#2 <| .next { s.retire with c2 := Config.cop2WriteCtl s.c2 rd (s.x rt) }

/-- CFC2 (47_coprocessor.md R241, R248). -/
def execCfc2 (rt rd : Reg) (s : State) : Result State :=
  withCop s 2#2 <|
    .next { s.retireLoad rt (Config.cop2ReadCtl s.c2 rd).1 with c2 := (Config.cop2ReadCtl s.c2 rd).2 }

/-- COP2: only the coprocessor's state changes (47_coprocessor.md R243). -/
def execCop2 (cofun : BitVec 25) (s : State) : Result State :=
  withCop s 2#2 <| .next { s.retire with c2 := Config.cop2Op s.c2 cofun }

/-- BC2F (47_coprocessor.md R245, R247). -/
def execBc2f (offset : Half) (s : State) : Result State :=
  outsideSlot s <| withCop s 2#2 <| branchWhen (!Config.cop2Cond s.c2) offset s

/-- BC2T (47_coprocessor.md R246, R247). -/
def execBc2t (offset : Half) (s : State) : Result State :=
  outsideSlot s <| withCop s 2#2 <| branchWhen (Config.cop2Cond s.c2) offset s

/-- LWC1 (47_coprocessor.md R235, R236; log 15). -/
def execLwc1 (_rt base : Reg) (offset : Half) (s : State) : Result State := copLoad 1#2 base offset s fun _ => absent

/-- SWC1 (47_coprocessor.md R235, R237; log 15). -/
def execSwc1 (_rt base : Reg) (offset : Half) (s : State) : Result State := copStore 1#2 base offset s fun _ => absent

/-- MTC1 (47_coprocessor.md R235, R238). -/
def execMtc1 (rt _rd : Reg) (s : State) : Result State := reading s rt <| withCop s 1#2 absent

/-- MFC1 (47_coprocessor.md R235, R239). -/
def execMfc1 (_rt _rd : Reg) (s : State) : Result State := withCop s 1#2 absent

/-- CTC1 (47_coprocessor.md R235, R240). -/
def execCtc1 (rt _rd : Reg) (s : State) : Result State := reading s rt <| withCop s 1#2 absent

/-- CFC1 (47_coprocessor.md R235, R241). -/
def execCfc1 (_rt _rd : Reg) (s : State) : Result State := withCop s 1#2 absent

/-- BC1F (47_coprocessor.md R235, R245). -/
def execBc1f (_offset : Half) (s : State) : Result State := outsideSlot s <| withCop s 1#2 absent

/-- BC1T (47_coprocessor.md R235, R246). -/
def execBc1t (_offset : Half) (s : State) : Result State := outsideSlot s <| withCop s 1#2 absent

/-- COP1 (47_coprocessor.md R235, R243). -/
def execCop1 (_cofun : BitVec 25) (s : State) : Result State := withCop s 1#2 absent

/-- LWC3 (47_coprocessor.md R235, R236; log 15). -/
def execLwc3 (_rt base : Reg) (offset : Half) (s : State) : Result State := copLoad 3#2 base offset s fun _ => absent

/-- SWC3 (47_coprocessor.md R235, R237; log 15). -/
def execSwc3 (_rt base : Reg) (offset : Half) (s : State) : Result State := copStore 3#2 base offset s fun _ => absent

/-- MTC3 (47_coprocessor.md R235, R238). -/
def execMtc3 (rt _rd : Reg) (s : State) : Result State := reading s rt <| withCop s 3#2 absent

/-- MFC3 (47_coprocessor.md R235, R239). -/
def execMfc3 (_rt _rd : Reg) (s : State) : Result State := withCop s 3#2 absent

/-- CTC3 (47_coprocessor.md R235, R240). -/
def execCtc3 (rt _rd : Reg) (s : State) : Result State := reading s rt <| withCop s 3#2 absent

/-- CFC3 (47_coprocessor.md R235, R241). -/
def execCfc3 (_rt _rd : Reg) (s : State) : Result State := withCop s 3#2 absent

/-- BC3F (47_coprocessor.md R235, R245). -/
def execBc3f (_offset : Half) (s : State) : Result State := outsideSlot s <| withCop s 3#2 absent

/-- BC3T (47_coprocessor.md R235, R246). -/
def execBc3t (_offset : Half) (s : State) : Result State := outsideSlot s <| withCop s 3#2 absent

/-- COP3 (47_coprocessor.md R235, R243). -/
def execCop3 (_cofun : BitVec 25) (s : State) : Result State := withCop s 3#2 absent

/-- LWC0 (47_coprocessor.md R236, R244; log 15). -/
def execLwc0 (_rt base : Reg) (offset : Half) (s : State) : Result State := copLoad 0#2 base offset s fun _ => noPath

/-- SWC0 (47_coprocessor.md R237, R244; log 15). -/
def execSwc0 (_rt base : Reg) (offset : Half) (s : State) : Result State := copStore 0#2 base offset s fun _ => noPath

/-- CTC0; its source register is that of CTCz (47_coprocessor.md R240, R244; log 18). -/
def execCtc0 (rt _rd : Reg) (s : State) : Result State := reading s rt <| withCop s 0#2 noPath

/-- CFC0 (47_coprocessor.md R241, R244). -/
def execCfc0 (_rt _rd : Reg) (s : State) : Result State := withCop s 0#2 noPath

/-- BC0F (47_coprocessor.md R245, R247, U28). -/
def execBc0f (_offset : Half) (s : State) : Result State := outsideSlot s <| withCop s 0#2 (.refused .cop0Condition)

/-- BC0T (47_coprocessor.md R246, R247, U28). -/
def execBc0t (_offset : Half) (s : State) : Result State := outsideSlot s <| withCop s 0#2 (.refused .cop0Condition)

end Sys2Proof.Machine
end

