-- ==== Sys2Proof/Machine/Immediate.lean ====
section
/-! DEFINITION. The computational instructions with an immediate operand (41_computational_immediate.md R160 to R168). -/

namespace Sys2Proof.Machine

/-- The shape of the computational instructions that cannot trap: one source register, one result. -/
def computeUnary (rd rs : Reg) (f : Word → Word) (s : State) : Result State :=
  reading s rs <| .next (s.setX rd (f (s.x rs))).retire

/-- The shape of an instruction whose result may overflow: on overflow exception Ov and no write
(41_computational_immediate.md R160, 42_three_operand_register.md R170). -/
def writeOrOverflow (rd : Reg) (result : Option Word) (s : State) : Result State :=
  match result with
  | some v => .next (s.setX rd v).retire
  | none => raise s .ov

/-- ADDI (41_computational_immediate.md R161). -/
def execAddi (rt rs : Reg) (imm : Half) (s : State) : Result State :=
  reading s rs <| writeOrOverflow rt (addTrapping (s.x rs) (signExtImm imm)) s

/-- ADDIU (41_computational_immediate.md R162). -/
def execAddiu (rt rs : Reg) (imm : Half) (s : State) : Result State :=
  computeUnary rt rs (fun a => a + signExtImm imm) s

/-- SLTI (41_computational_immediate.md R163). -/
def execSlti (rt rs : Reg) (imm : Half) (s : State) : Result State :=
  computeUnary rt rs (fun a => setLessSigned a (signExtImm imm)) s

/-- SLTIU (41_computational_immediate.md R164). -/
def execSltiu (rt rs : Reg) (imm : Half) (s : State) : Result State :=
  computeUnary rt rs (fun a => setLessUnsigned a (signExtImm imm)) s

/-- ANDI (41_computational_immediate.md R165). -/
def execAndi (rt rs : Reg) (imm : Half) (s : State) : Result State :=
  computeUnary rt rs (fun a => a &&& zeroExtImm imm) s

/-- ORI (41_computational_immediate.md R166). -/
def execOri (rt rs : Reg) (imm : Half) (s : State) : Result State :=
  computeUnary rt rs (fun a => a ||| zeroExtImm imm) s

/-- XORI (41_computational_immediate.md R167). -/
def execXori (rt rs : Reg) (imm : Half) (s : State) : Result State :=
  computeUnary rt rs (fun a => a ^^^ zeroExtImm imm) s

/-- LUI; the old value of rt plays no part (41_computational_immediate.md R168, 90_conflicts.md C7). -/
def execLui (rt : Reg) (imm : Half) (s : State) : Result State := .next (s.setX rt (upperImm imm)).retire

end Sys2Proof.Machine
end

