-- ==== Sys2Proof/Machine/MultDiv.lean ====
section
/-! DEFINITION. The multiply and divide instructions (44_multiply_divide.md R195 to R205). -/

namespace Sys2Proof.Machine

/-- The shape of MULT, MULTU, DIV and DIVU: both of HI and LO are written, no register is
(44_multiply_divide.md R204, R205). -/
def computeHiLo (rs rt : Reg) (f : Word → Word → Word × Word) (s : State) : Result State :=
  reading s rs <| reading s rt <| hiLoFree s true true <|
    .next { s.retire with hi := (f (s.x rs) (s.x rt)).1, lo := (f (s.x rs) (s.x rt)).2 }

/-- MULT (44_multiply_divide.md R195). -/
def execMult (rs rt : Reg) (s : State) : Result State := computeHiLo rs rt mulSigned s

/-- MULTU (44_multiply_divide.md R196). -/
def execMultu (rs rt : Reg) (s : State) : Result State := computeHiLo rs rt mulUnsigned s

/-- DIV (44_multiply_divide.md R197). -/
def execDiv (rs rt : Reg) (s : State) : Result State := computeHiLo rs rt divSigned s

/-- DIVU (44_multiply_divide.md R198). -/
def execDivu (rs rt : Reg) (s : State) : Result State := computeHiLo rs rt divUnsigned s

/-- MFHI: HI may not be written by the next two instructions (44_multiply_divide.md R200, R205). -/
def execMfhi (rd : Reg) (s : State) : Result State := .next { (s.setX rd s.hi).retire with hiAge := 2 }

/-- MFLO: LO may not be written by the next two instructions (44_multiply_divide.md R201, R205). -/
def execMflo (rd : Reg) (s : State) : Result State := .next { (s.setX rd s.lo).retire with loAge := 2 }

/-- MTHI (44_multiply_divide.md R202, 90_conflicts.md C12). -/
def execMthi (rs : Reg) (s : State) : Result State :=
  reading s rs <| hiLoFree s true false <| .next { s.retire with hi := s.x rs }

/-- MTLO (44_multiply_divide.md R203, 90_conflicts.md C12). -/
def execMtlo (rs : Reg) (s : State) : Result State :=
  reading s rs <| hiLoFree s false true <| .next { s.retire with lo := s.x rs }

end Sys2Proof.Machine
end

