-- ==== Sys2Proof/Machine/ThreeOperand.lean ====
section
/-! DEFINITION. The three-operand register-type instructions (42_three_operand_register.md R170 to R181). -/

namespace Sys2Proof.Machine

/-- The shape of the three-operand instructions that cannot trap (42_three_operand_register.md R170). -/
def computeBinary (rd rs rt : Reg) (f : Word → Word → Word) (s : State) : Result State :=
  reading s rs <| reading s rt <| .next (s.setX rd (f (s.x rs) (s.x rt))).retire

/-- ADD (42_three_operand_register.md R171). -/
def execAdd (rd rs rt : Reg) (s : State) : Result State :=
  reading s rs <| reading s rt <| writeOrOverflow rd (addTrapping (s.x rs) (s.x rt)) s

/-- SUB (42_three_operand_register.md R173). -/
def execSub (rd rs rt : Reg) (s : State) : Result State :=
  reading s rs <| reading s rt <| writeOrOverflow rd (subTrapping (s.x rs) (s.x rt)) s

/-- ADDU (42_three_operand_register.md R172). -/
def execAddu (rd rs rt : Reg) (s : State) : Result State :=
  computeBinary rd rs rt (fun a b => a + b) s

/-- SUBU (42_three_operand_register.md R174). -/
def execSubu (rd rs rt : Reg) (s : State) : Result State :=
  computeBinary rd rs rt (fun a b => a - b) s

/-- SLT (42_three_operand_register.md R175). -/
def execSlt (rd rs rt : Reg) (s : State) : Result State :=
  computeBinary rd rs rt (fun a b => setLessSigned a b) s

/-- SLTU (42_three_operand_register.md R176). -/
def execSltu (rd rs rt : Reg) (s : State) : Result State :=
  computeBinary rd rs rt (fun a b => setLessUnsigned a b) s

/-- AND (42_three_operand_register.md R177). -/
def execAnd (rd rs rt : Reg) (s : State) : Result State :=
  computeBinary rd rs rt (fun a b => a &&& b) s

/-- OR (42_three_operand_register.md R178). -/
def execOr (rd rs rt : Reg) (s : State) : Result State :=
  computeBinary rd rs rt (fun a b => a ||| b) s

/-- XOR (42_three_operand_register.md R179). -/
def execXor (rd rs rt : Reg) (s : State) : Result State :=
  computeBinary rd rs rt (fun a b => a ^^^ b) s

/-- NOR (42_three_operand_register.md R180). -/
def execNor (rd rs rt : Reg) (s : State) : Result State :=
  computeBinary rd rs rt (fun a b => ~~~(a ||| b)) s

end Sys2Proof.Machine
end

