-- ==== Sys2Proof/Machine/Shift.lean ====
section
/-! DEFINITION. The shift instructions (43_shift.md R185 to R191). -/

namespace Sys2Proof.Machine

/-- SLL (43_shift.md R186). -/
def execSll (rd rt : Reg) (shamt : BitVec 5) (s : State) : Result State :=
  computeUnary rd rt (fun v => v <<< shamt.toNat) s

/-- SRL (43_shift.md R187). -/
def execSrl (rd rt : Reg) (shamt : BitVec 5) (s : State) : Result State :=
  computeUnary rd rt (fun v => v >>> shamt.toNat) s

/-- SRA (43_shift.md R188). -/
def execSra (rd rt : Reg) (shamt : BitVec 5) (s : State) : Result State :=
  computeUnary rd rt (fun v => v.sshiftRight shamt.toNat) s

/-- SLLV (43_shift.md R189). -/
def execSllv (rd rt rs : Reg) (s : State) : Result State :=
  computeBinary rd rt rs (fun v n => v <<< shiftAmount n) s

/-- SRLV (43_shift.md R190). -/
def execSrlv (rd rt rs : Reg) (s : State) : Result State :=
  computeBinary rd rt rs (fun v n => v >>> shiftAmount n) s

/-- SRAV (43_shift.md R191). -/
def execSrav (rd rt rs : Reg) (s : State) : Result State :=
  computeBinary rd rt rs (fun v n => v.sshiftRight (shiftAmount n)) s

end Sys2Proof.Machine
end

