-- ==== Sys2Proof/Machine/Special.lean ====
section
/-! DEFINITION. SYSCALL, BREAK and the Reserved Instructions (46_special.md R230 to R232, 30_encoding.md R116). -/

namespace Sys2Proof.Machine

/-- SYSCALL: exception Sys; the code field is not looked at (46_special.md R230, 30_encoding.md R121). -/
def execSyscall (_code : BitVec 20) (s : State) : Result State := raise s .sys

/-- BREAK: exception Bp; the code field is not looked at (46_special.md R231, 30_encoding.md R121). -/
def execBrk (_code : BitVec 20) (s : State) : Result State := raise s .bp

/-- A word in an N/A cell of the opcode maps: exception RI, whatever its other bits (30_encoding.md R116). -/
def execReserved (_word : Word) (s : State) : Result State := raise s .ri

end Sys2Proof.Machine
end

