-- ==== Sys2Proof/Machine/Step.lean ====
section
/-! DEFINITION. The instruction cycle (10_state.md R28) and where a program's word is placed for it. -/

namespace Sys2Proof.Machine

/-- Steps S3 to S9: fetch at pc, decode, and the meaning of the decoded instruction (10_state.md R28). -/
def fetchAndRun (s : State) : Host.Outcome State Fault Refusal :=
  (fetch s s.pc).finish s fun w =>
    match decode w with
    | .ok i => exec i s
    | .error e => rejectWord s e

/-- One step of the core: the inputs are sampled, an interrupt is taken if its condition holds, otherwise one
instruction executes (10_state.md R28). -/
def step (s : State) : Host.Outcome State Fault Refusal :=
  if s.beginStep.interruptPending then raise s.beginStep .int else fetchAndRun s.beginStep

/-- The state with the instruction of nbits bits w stored where the next step fetches (log 21). -/
def State.withFetchWord (s : State) (nbits w : Nat) : State :=
  match fetchAddress s with
  | some pa => s.placeWord pa (tableWord nbits w)
  | none => s

end Sys2Proof.Machine
end

