-- ==== Sys2Proof/Safety.lean ====
section
/-! DEFINITION. What counts as a safe run, the invariant of the machine, and the terms the statements use:
what an instruction leaves unchanged, which registers it reads, which coprocessor it addresses. -/

namespace Sys2Proof.Machine

/-! ## Outcomes -/

/-- The next state of an outcome, where there is one. -/
def nextOf (r : Result State) : Option State :=
  match r with
  | .next t => some t
  | _ => none

/-- The fault of an outcome, where it is one. -/
def faultOf (r : Result State) : Option Fault :=
  match r with
  | .fault f => some f
  | _ => none

/-- The refusal of an outcome, where it is one. -/
def refusalOf (r : Result State) : Option Refusal :=
  match r with
  | .refused f => some f
  | _ => none

/-! ## Runs -/

/-- t is reached from s by some number of steps. -/
inductive Reaches : State → State → Prop where
  | refl (s : State) : Reaches s s
  | tail {s t u : State} : Reaches s t → step t = .next u → Reaches s u

/-- A safe run: no state reached from s stops with a fault or a refusal (70_reset_and_hazards.md R346). -/
def SafeFrom (s : State) : Prop := ∀ t, Reaches s t → (nextOf (step t)).isSome = true

/-- The convention of a harness, no state of the machine: the run ends with the entry of a Bp exception
(70_reset_and_hazards.md R345). -/
def EndsRun (s t : State) : Prop := step s = .next t ∧ t = s.beginStep.takeException .bp

/-! ## The invariant -/

/-- The fields of coprocessor 0 that read as 0 are 0, Random is in 8..63, ExcCode is a code, and SR.RE and
SR.SwC are clear (10_state.md R32 to R39). -/
structure Cp0.Legal (c : Cp0) : Prop where
  index_reserved : c.index &&& 0x7FFFC0FF#32 = 0#32
  random_reserved : c.random &&& 0xFFFFC0FF#32 = 0#32
  random_range : 8 ≤ (indexOf c.random).toNat
  entryLo_reserved : c.entryLo &&& 0x000000FF#32 = 0#32
  context_reserved : c.context &&& 0x00000003#32 = 0#32
  entryHi_reserved : c.entryHi &&& 0x0000003F#32 = 0#32
  sr_reserved : c.sr &&& 0x0FBA00C0#32 = 0#32
  cause_reserved : c.cause &&& 0x4FFF0083#32 = 0#32
  cause_code : (c.cause.extractLsb' 2 5).toNat ≤ 12

/-- The bits of a TLB entry that no field occupies are 0 (10_state.md R43). -/
def TlbEntry.Legal (e : TlbEntry) : Prop := e.hi &&& 0x0000003F#32 = 0#32 ∧ e.lo &&& 0x000000FF#32 = 0#32

/-- What holds in every state a run reaches: memory and W in their canonical forms; outside a delay slot the
next instruction is the sequential one (10_state.md R26); ld names no R0 and the HI/LO counters are in 0..2
(R29); the reserved fields of coprocessor 0 and of the TLB read as the spec says (R32 to R43). -/
structure State.Inv (s : State) : Prop where
  memory_canonical : Memory.wf s.mem = true
  written_rising : s.written.Pairwise (· < ·)
  sequential : s.slot = false → s.npc = s.pc + 4#32
  ld_not_r0 : s.ld ≠ some 0#5
  hi_age : s.hiAge ≤ 2
  lo_age : s.loAge ≤ 2
  cp0_legal : s.cp0.Legal
  tlb_legal : ∀ i : Fin Config.tlbEntries, (s.tlb.get i).Legal

/-! ## What an instruction changes -/

/-- Register r holds v after, and every other register is unchanged; a write to R0 is discarded. -/
def RegsAfter (s t : State) (r : Reg) (v : Word) : Prop :=
  ∀ q : Reg, t.x q = if q = 0#5 then 0#32 else if q = r then v else s.x q

/-- No general register changes. -/
def SameRegs (s t : State) : Prop := ∀ q : Reg, t.x q = s.x q

/-- HI and LO are unchanged. -/
def SameHiLo (s t : State) : Prop := t.hi = s.hi ∧ t.lo = s.lo

/-- Coprocessor 0 and the TLB are unchanged. -/
def SameSystem (s t : State) : Prop := t.cp0 = s.cp0 ∧ t.tlb = s.tlb

/-- Every byte of memory and the set W are unchanged. -/
def SameMemory (s t : State) : Prop := (∀ a : Nat, Memory.read t.mem a = Memory.read s.mem a) ∧ t.written = s.written

/-- The environment is unchanged: the lines still to come, the platform, the step counter. -/
def SameWorld (s t : State) : Prop := t.intLines = s.intLines ∧ t.platform = s.platform ∧ t.tick = s.tick

/-- Everything but the program counters, the hazard state and the general registers is unchanged. -/
def SameRest (s t : State) : Prop :=
  SameHiLo s t ∧ SameSystem s t ∧ SameMemory s t ∧ SameWorld s t ∧ t.c2 = s.c2

/-- The program counters, ld and the HI/LO counters after an instruction that is no jump, no load, no MFHI
and no MFLO (10_state.md R28 S9). -/
def Advances (s t : State) : Prop :=
  t.pc = s.npc ∧ t.npc = s.npc + 4#32 ∧ t.slot = false ∧ t.ld = none ∧ t.hiAge = s.hiAge - 1 ∧ t.loAge = s.loAge - 1

/-- The same after a load or a move from a coprocessor to rt (10_state.md R28 S7, 70_reset_and_hazards.md R331 (d)). -/
def AdvancesLoad (s t : State) (rt : Reg) : Prop :=
  t.pc = s.npc ∧ t.npc = s.npc + 4#32 ∧ t.slot = false ∧ t.ld = (if rt = 0#5 then none else some rt) ∧
    t.hiAge = s.hiAge - 1 ∧ t.loAge = s.loAge - 1

/-- The same after a jump or branch to target when taken (45_jump_branch.md R222). -/
def Transfers (s t : State) (taken : Prop) (target : Word) : Prop :=
  t.pc = s.npc ∧ (taken → t.npc = target) ∧ (¬taken → t.npc = s.npc + 4#32) ∧ t.slot = true ∧ t.ld = none ∧
    t.hiAge = s.hiAge - 1 ∧ t.loAge = s.loAge - 1

/-- The instruction completes in a state that writes v to r and nothing else. -/
def Computes (i : Instr) (s : State) (r : Reg) (v : Word) : Prop :=
  ∃ t, exec i s = .next t ∧ RegsAfter s t r v ∧ SameRest s t ∧ Advances s t

/-- The instruction completes as a load of v into r. -/
def Loads (i : Instr) (s : State) (r : Reg) (v : Word) : Prop :=
  ∃ t, exec i s = .next t ∧ RegsAfter s t r v ∧ SameRest s t ∧ AdvancesLoad s t r

/-- The instruction completes as a jump or branch that writes no register. -/
def Jumps (i : Instr) (s : State) (taken : Prop) (target : Word) : Prop :=
  ∃ t, exec i s = .next t ∧ SameRegs s t ∧ SameRest s t ∧ Transfers s t taken target

/-- The instruction completes as a jump or branch that writes its link value to r. -/
def Links (i : Instr) (s : State) (r : Reg) (taken : Prop) (target : Word) : Prop :=
  ∃ t, exec i s = .next t ∧ RegsAfter s t r (s.pc + 8#32) ∧ SameRest s t ∧ Transfers s t taken target

/-- The instruction takes the exception e, whose whole state change is State.takeException
(60_exceptions.md R290). -/
def Traps (i : Instr) (s : State) (e : Exc) : Prop := exec i s = .next (s.takeException e)

/-- The instruction completes as a store: byte k of memory is bytes k where the function gives one, every
other byte is unchanged, and no register is. W gains the word of pa. -/
def Stores (i : Instr) (s : State) (pa : Word) (bytes : Nat → Option Byte) : Prop :=
  ∃ t, exec i s = .next t ∧ (∀ a : Nat, Memory.read t.mem a = (bytes a).getD (Memory.read s.mem a)) ∧
    (∀ w : Nat, w ∈ t.written ↔ w = (wordAddress pa).toNat ∨ w ∈ s.written) ∧
    SameRegs s t ∧ SameHiLo s t ∧ SameSystem s t ∧ SameWorld s t ∧ t.c2 = s.c2 ∧ Advances s t

/-- The n bytes at pa, from the low bytes of v, as a function of the address (20_memory.md R64). -/
def bytesAt (pa : Word) (n : Nat) (v : Word) (a : Nat) : Option Byte :=
  if pa.toNat ≤ a ∧ a < pa.toNat + n then some (v.extractLsb' (8 * (a - pa.toNat)) 8) else none

/-! ## When an access completes -/

/-- A load of n bytes at va reaches memory at pa: translated, not isolated, no bus error, populated
(20_memory.md R72). -/
def LoadReady (s : State) (va : Word) (n : Nat) (pa : Word) : Prop :=
  (∃ c, translateAddress s va .load = .done { pa := pa, cacheable := c }) ∧ srIsc s.cp0.sr = false ∧
    s.platform.busError pa .load = false ∧ s.platform.populatedAt pa n = true

/-- A store of n bytes at va reaches memory at pa (20_memory.md R73). -/
def StoreReady (s : State) (va : Word) (n : Nat) (pa : Word) : Prop :=
  (∃ c, translateAddress s va .store = .done { pa := pa, cacheable := c }) ∧ srIsc s.cp0.sr = false ∧
    s.platform.busError pa .store = false ∧ s.platform.writableAt pa n = true

/-! ## The Reads lines, the jumps, the coprocessors -/

/-- The general registers an instruction reads as source operands: the Reads line of its rule, without the
merge operand of LWL and LWR, which the load delay exempts (70_reset_and_hazards.md R330, R331). -/
def delayedSources : Instr → List Reg
  | .lb _ b _ | .lbu _ b _ | .lh _ b _ | .lhu _ b _ | .lw _ b _ | .lwl _ b _ | .lwr _ b _ => [b]
  | .sb rt b _ | .sh rt b _ | .sw rt b _ | .swl rt b _ | .swr rt b _ => [b, rt]
  | .addi _ rs _ | .addiu _ rs _ | .slti _ rs _ | .sltiu _ rs _ | .andi _ rs _ | .ori _ rs _ | .xori _ rs _ => [rs]
  | .lui _ _ => []
  | .add _ rs rt | .addu _ rs rt | .sub _ rs rt | .subu _ rs rt | .and _ rs rt | .or _ rs rt | .xor _ rs rt
  | .nor _ rs rt | .slt _ rs rt | .sltu _ rs rt => [rs, rt]
  | .sll _ rt _ | .srl _ rt _ | .sra _ rt _ => [rt]
  | .sllv _ rt rs | .srlv _ rt rs | .srav _ rt rs => [rs, rt]
  | .mult rs rt | .multu rs rt | .div rs rt | .divu rs rt => [rs, rt]
  | .mfhi _ | .mflo _ => []
  | .mthi rs | .mtlo rs => [rs]
  | .j _ | .jal _ => []
  | .jr rs | .jalr rs _ => [rs]
  | .beq rs rt _ | .bne rs rt _ => [rs, rt]
  | .blez rs _ | .bgtz rs _ | .bltz rs _ | .bgez rs _ | .bltzal rs _ | .bgezal rs _ => [rs]
  | .syscall _ | .brk _ | .reserved _ => []
  | .lwc0 _ b _ | .lwc1 _ b _ | .lwc2 _ b _ | .lwc3 _ b _ => [b]
  | .swc0 _ b _ | .swc1 _ b _ | .swc2 _ b _ | .swc3 _ b _ => [b]
  | .mtc0 rt _ | .mtc1 rt _ | .mtc2 rt _ | .mtc3 rt _ => [rt]
  | .ctc0 rt _ | .ctc1 rt _ | .ctc2 rt _ | .ctc3 rt _ => [rt]
  | .mfc0 _ _ | .mfc1 _ _ | .mfc2 _ _ | .mfc3 _ _ | .cfc0 _ _ | .cfc1 _ _ | .cfc2 _ _ | .cfc3 _ _ => []
  | .bc0f _ | .bc0t _ | .bc1f _ | .bc1t _ | .bc2f _ | .bc2t _ | .bc3f _ | .bc3t _ => []
  | .cop1 _ | .cop2 _ | .cop3 _ => []
  | .tlbr | .tlbwi | .tlbwr | .tlbp | .rfe => []

/-- The jumps and branches (70_reset_and_hazards.md R334). -/
def isJump : Instr → Bool
  | .j _ | .jal _ | .jr _ | .jalr _ _ | .beq _ _ _ | .bne _ _ _ | .blez _ _ | .bgtz _ _ | .bltz _ _ | .bgez _ _
  | .bltzal _ _ | .bgezal _ _ => true
  | .bc0f _ | .bc0t _ | .bc1f _ | .bc1t _ | .bc2f _ | .bc2t _ | .bc3f _ | .bc3t _ => true
  | _ => false

/-- The writers of HI, as far as the hazard goes (44_multiply_divide.md R205). -/
def writesHi : Instr → Bool
  | .mult _ _ | .multu _ _ | .div _ _ | .divu _ _ | .mthi _ => true
  | _ => false

/-- The writers of LO, as far as the hazard goes (44_multiply_divide.md R205). -/
def writesLo : Instr → Bool
  | .mult _ _ | .multu _ _ | .div _ _ | .divu _ _ | .mtlo _ => true
  | _ => false

/-- The instructions that write memory (20_memory.md R61). -/
def writesMemory : Instr → Bool
  | .sb _ _ _ | .sh _ _ _ | .sw _ _ _ | .swl _ _ _ | .swr _ _ _ | .swc2 _ _ _ => true
  | _ => false

/-- The coprocessor an instruction is for (47_coprocessor.md R235, 48_cop0.md R257). -/
def coprocessorOf : Instr → Option (BitVec 2)
  | .lwc0 _ _ _ | .swc0 _ _ _ | .mtc0 _ _ | .mfc0 _ _ | .ctc0 _ _ | .cfc0 _ _ | .bc0f _ | .bc0t _ => some 0#2
  | .tlbr | .tlbwi | .tlbwr | .tlbp | .rfe => some 0#2
  | .lwc1 _ _ _ | .swc1 _ _ _ | .mtc1 _ _ | .mfc1 _ _ | .ctc1 _ _ | .cfc1 _ _ | .bc1f _ | .bc1t _ | .cop1 _ => some 1#2
  | .lwc2 _ _ _ | .swc2 _ _ _ | .mtc2 _ _ | .mfc2 _ _ | .ctc2 _ _ | .cfc2 _ _ | .bc2f _ | .bc2t _ | .cop2 _ => some 2#2
  | .lwc3 _ _ _ | .swc3 _ _ _ | .mtc3 _ _ | .mfc3 _ _ | .ctc3 _ _ | .cfc3 _ _ | .bc3f _ | .bc3t _ | .cop3 _ => some 3#2
  | _ => none

/-- The data access of an instruction: its kind, its virtual address and its size in bytes (20_memory.md R61,
R70). The coprocessor stores other than SWC2 make none (47_coprocessor.md R237). -/
def dataAccess (i : Instr) (s : State) : Option (AccessKind × Word × Nat) :=
  match i with
  | .lb _ b o | .lbu _ b o => some (.load, effectiveAddress (s.x b) o, 1)
  | .lh _ b o | .lhu _ b o => some (.load, effectiveAddress (s.x b) o, 2)
  | .lw _ b o | .lwc0 _ b o | .lwc1 _ b o | .lwc2 _ b o | .lwc3 _ b o => some (.load, effectiveAddress (s.x b) o, 4)
  | .lwl _ b o | .lwr _ b o => some (.load, wordAddress (effectiveAddress (s.x b) o), 4)
  | .sb _ b o => some (.store, effectiveAddress (s.x b) o, 1)
  | .sh _ b o => some (.store, effectiveAddress (s.x b) o, 2)
  | .sw _ b o | .swc2 _ b o => some (.store, effectiveAddress (s.x b) o, 4)
  | .swl _ b o =>
    some (.store, wordAddress (effectiveAddress (s.x b) o), byteIndex (effectiveAddress (s.x b) o) + 1)
  | .swr _ b o => some (.store, effectiveAddress (s.x b) o, 4 - byteIndex (effectiveAddress (s.x b) o))
  | _ => none

/-- The kind and the virtual address of the address check of an instruction: that of its data access, and for the
coprocessor stores that make none the address they check before they stop (20_memory.md R66, 47_coprocessor.md
R237; log 15). -/
def checkedAddress (i : Instr) (s : State) : Option (AccessKind × Word) :=
  match i with
  | .swc0 _ b o | .swc1 _ b o | .swc3 _ b o => some (.store, effectiveAddress (s.x b) o)
  | _ => (dataAccess i s).map fun a => (a.1, a.2.1)

/-- The general register a load of the core writes: its rt (40_load_store.md R141 to R147). -/
def loadTarget : Instr → Option Reg
  | .lb rt _ _ | .lbu rt _ _ | .lh rt _ _ | .lhu rt _ _ | .lw rt _ _ | .lwl rt _ _ | .lwr rt _ _ => some rt
  | _ => none

/-- The alignment an instruction's data access needs (20_memory.md R66). -/
def alignmentOf : Instr → Nat
  | .lh _ _ _ | .lhu _ _ _ | .sh _ _ _ => 2
  | .lw _ _ _ | .sw _ _ _ | .lwc0 _ _ _ | .lwc1 _ _ _ | .lwc2 _ _ _ | .lwc3 _ _ _ => 4
  | .swc0 _ _ _ | .swc1 _ _ _ | .swc2 _ _ _ | .swc3 _ _ _ => 4
  | _ => 1

/-- The coprocessor an instruction is for, if any, is usable (47_coprocessor.md R235). -/
def CopUsable (i : Instr) (s : State) : Prop := ∀ z, coprocessorOf i = some z → s.usable z = true

/-- No interrupt is taken at the start of the step (60_exceptions.md R280). -/
def NoInterrupt (s : State) : Prop := s.beginStep.interruptPending = false

/-- The fetch at pc reaches memory at pa: aligned, translated, no bus error, populated, and not stale
(20_memory.md R74, R88). -/
def FetchReady (s : State) (pa : Word) : Prop :=
  s.pc.toNat % 4 = 0 ∧
    (∃ c, translateAddress s s.pc .fetch = .done { pa := pa, cacheable := c } ∧
      (c = true → (wordAddress pa).toNat ∉ s.written)) ∧
    s.platform.busError pa .fetch = false ∧ s.platform.populatedAt pa 4 = true

/-- Entry i of the TLB matches va: its page is va[31:12], and it is global or of the current address space
(20_memory.md R80). -/
def Matches (s : State) (i : Fin Config.tlbEntries) (va : Word) : Prop :=
  (s.tlb.get i).hi.extractLsb' 12 20 = va.extractLsb' 12 20 ∧
    ((s.tlb.get i).lo.getLsbD 8 = true ∨ (s.tlb.get i).hi.extractLsb' 6 6 = s.cp0.entryHi.extractLsb' 6 6)

/-- At most one TLB entry matches each address (20_memory.md R80, R82). -/
def UniqueMatches (s : State) : Prop := ∀ (va : Word) (i j : Fin Config.tlbEntries), Matches s i va → Matches s j va → i = j

/-- The address lies in a mapped segment, kuseg or kseg2 (20_memory.md R79, R80). -/
def MappedAddress (va : Word) : Prop := va.extractLsb' 30 2 ≠ 0b10#2

/-- A run from s uses mapped addresses: in some state it reaches, the fetch or the data access of the instruction
that is fetched is at one. -/
def UsesMapped (s : State) : Prop :=
  ∃ t, Reaches s t ∧
    (MappedAddress t.pc ∨
      ∃ w i a, fetch t t.pc = .done w ∧ decode w = .ok i ∧ dataAccess i t = some a ∧ MappedAddress a.2.1)

/-- A launch state for a program that does not start from reset (70_reset_and_hazards.md R324): between
instructions, no hazard pending, kernel mode with BEV, IsC, SwC and RE clear, nothing stored yet, and at most one
match per address in the TLB if mapped addresses are used. The registers and the memory are whatever s gives.
DESIGN CHOICE (log 37): SR.IEc and SR.CU are free, as R324 names neither and program P4 of 95_test_vectors.md starts
with IEc = 1, while decision D29 of 92_eei_decisions.md describes the launch state with both 0. Safe. -/
structure LaunchState (s : State) : Prop where
  pc_aligned : s.pc.extractLsb' 0 2 = 0#2
  npc_next : s.npc = s.pc + 4#32
  slot_clear : s.slot = false
  ld_none : s.ld = none
  hi_age_zero : s.hiAge = 0
  lo_age_zero : s.loAge = 0
  sr_clear : s.cp0.sr &&& 0x02430002#32 = 0#32
  written_empty : s.written = []
  tlb_unique : UsesMapped s → UniqueMatches s

/-- No hazard check of step S6 stops the instruction (10_state.md R28 S6, 70_reset_and_hazards.md R330, R332, R334). -/
def HazardFree (i : Instr) (s : State) : Prop :=
  (∀ r ∈ delayedSources i, s.ld ≠ some r) ∧ (isJump i = true → s.slot = false) ∧
    (writesHi i = true → s.hiAge = 0) ∧ (writesLo i = true → s.loAge = 0)

end Sys2Proof.Machine
end

