-- ==== Sys2Proof/Certificates/Slice0/Obligations.lean ====
section
/-! DEFINITION. The statements for the provers, one definition each, in the order of OBLIGATIONS.json. -/

section Slice0

open Sys2Proof Sys2Proof.Machine

/-! ## Encoding -/

/-- The decoding of the encoding of a well-formed instruction is that instruction (30_encoding.md R101 to R117). -/
def Obligations.DecodeOfEncode : Prop := ∀ i : Instr, i.wf = true → decode (encode i) = .ok i

/-- A word that decodes is the encoding of the one instruction it decodes to, and that instruction is
well-formed: no bit of a word is dropped (30_encoding.md R107, R117). -/
def Obligations.EncodeOfDecode : Prop :=
  ∀ (w : Word) (i : Instr), decode w = .ok i → i.wf = true ∧ encode i = w

/-- The N/A cells of both opcode maps raise RI, code 10, in every state and whatever the other bits
(30_encoding.md R116). -/
def Obligations.ReservedCellsRaiseRI : Prop :=
  ∀ w : Word,
    (let op := (w.extractLsb' 26 6).toNat
     let funct := (w.extractLsb' 0 6).toNat
     (0x14 ≤ op ∧ op ≤ 0x1F) ∨ op = 0x27 ∨ op = 0x2C ∨ op = 0x2D ∨ op = 0x2F ∨ (0x34 ≤ op ∧ op ≤ 0x37) ∨ 0x3C ≤ op ∨
       (op = 0 ∧ (funct = 0x01 ∨ funct = 0x05 ∨ funct = 0x0A ∨ funct = 0x0B ∨ funct = 0x0E ∨ funct = 0x0F ∨
         (0x14 ≤ funct ∧ funct ≤ 0x17) ∨ (0x1C ≤ funct ∧ funct ≤ 0x1F) ∨ funct = 0x28 ∨ funct = 0x29 ∨ 0x2C ≤ funct))) →
    ∃ i, decode w = .ok i ∧
      ∀ s, exec i s = .next (s.takeException .ri) ∧ (s.takeException .ri).cp0.cause.extractLsb' 2 5 = 10#5

/-- Words written out from the encodings of the rules decode to the instructions they stand for. -/
def Obligations.SampleWordsDecode : Prop :=
  decode 0x890E0004#32 = .ok (.lwl 14#5 8#5 0x0004#16) ∧ decode 0xA1090001#32 = .ok (.sb 9#5 8#5 0x0001#16) ∧
  decode 0x21090001#32 = .ok (.addi 9#5 8#5 0x0001#16) ∧ decode 0x3C088002#32 = .ok (.lui 8#5 0x8002#16) ∧
  decode 0x01095022#32 = .ok (.sub 10#5 8#5 9#5) ∧ decode 0x01095006#32 = .ok (.srlv 10#5 9#5 8#5) ∧ decode 0x0109001A#32 = .ok (.div 8#5 9#5) ∧
  decode 0x00005010#32 = .ok (.mfhi 10#5) ∧ decode 0x0C004008#32 = .ok (.jal 0x0004008#26) ∧
  decode 0x0100F809#32 = .ok (.jalr 8#5 31#5) ∧ decode 0x1500FFFD#32 = .ok (.bne 8#5 0#5 0xFFFD#16) ∧
  decode 0x05100002#32 = .ok (.bltzal 8#5 0x0002#16) ∧ decode 0x0000000C#32 = .ok (.syscall 0#20) ∧
  decode 0x48880800#32 = .ok (.mtc2 8#5 1#5) ∧ decode 0x49000002#32 = .ok (.bc2f 0x0002#16) ∧
  decode 0xE9010010#32 = .ok (.swc2 1#5 8#5 0x0010#16) ∧ decode 0x4A000001#32 = .ok (.cop2 1#25) ∧
  decode 0x401A7000#32 = .ok (.mfc0 26#5 14#5) ∧ decode 0x42000006#32 = .ok .tlbwr

/-- The words no row of the maps stands for are rejected, each by its name: unlisted BcondZ, COPz and COP0
encodings (30_encoding.md R113, R114, R115), non-zero unused fields (R117), and the two operand patterns of
45_jump_branch.md R227. -/
def Obligations.UnlistedWordsRejected : Prop :=
  ∀ w : Word,
    (opOf w = 0x01#6 → rtOf w ∉ [0x00#5, 0x01#5, 0x10#5, 0x11#5] → decode w = .error .bcondZ) ∧
    (∀ z : BitVec 2, opOf w = 0b0100#4 ++ z → coOf w = 0#1 →
      rsOf w ∉ [0x00#5, 0x02#5, 0x04#5, 0x06#5, 0x08#5] ∨ (rsOf w = 0x08#5 ∧ rtOf w ∉ [0x00#5, 0x01#5]) →
      decode w = .error (.copSub z)) ∧
    (opOf w = 0x10#6 → coOf w = 1#1 → functOf w ∉ [0x01#6, 0x02#6, 0x06#6, 0x08#6, 0x10#6] →
      decode w = .error .cop0Function) ∧
    (opOf w = 0x00#6 →
      (functOf w ∈ [0x00#6, 0x02#6, 0x03#6] → rsOf w ≠ 0#5 → decode w = .error .unusedField) ∧
      (functOf w ∈ [0x04#6, 0x06#6, 0x07#6, 0x20#6, 0x21#6, 0x22#6, 0x23#6, 0x24#6, 0x25#6, 0x26#6, 0x27#6, 0x2A#6, 0x2B#6] →
        shamtOf w ≠ 0#5 → decode w = .error .unusedField) ∧
      (functOf w ∈ [0x08#6, 0x11#6, 0x13#6] → rtOf w ≠ 0#5 ∨ rdOf w ≠ 0#5 ∨ shamtOf w ≠ 0#5 →
        decode w = .error .unusedField) ∧
      (functOf w = 0x09#6 → rtOf w ≠ 0#5 ∨ shamtOf w ≠ 0#5 → decode w = .error .unusedField) ∧
      (functOf w = 0x09#6 → rtOf w = 0#5 → shamtOf w = 0#5 → rsOf w = rdOf w → rdOf w ≠ 0#5 →
        decode w = .error .jalrSameRegister) ∧
      (functOf w ∈ [0x10#6, 0x12#6] → rsOf w ≠ 0#5 ∨ rtOf w ≠ 0#5 ∨ shamtOf w ≠ 0#5 → decode w = .error .unusedField) ∧
      (functOf w ∈ [0x18#6, 0x19#6, 0x1A#6, 0x1B#6] → rdOf w ≠ 0#5 ∨ shamtOf w ≠ 0#5 → decode w = .error .unusedField)) ∧
    (opOf w = 0x01#6 → rtOf w ∈ [0x10#5, 0x11#5] → rsOf w = 31#5 → decode w = .error .linkBranchOn31) ∧
    (opOf w ∈ [0x06#6, 0x07#6] → rtOf w ≠ 0#5 → decode w = .error .unusedField) ∧
    (opOf w = 0x0F#6 → rsOf w ≠ 0#5 → decode w = .error .unusedField) ∧
    (opOf w ∈ [0x10#6, 0x11#6, 0x12#6, 0x13#6] → rsOf w ∈ [0x00#5, 0x02#5, 0x04#5, 0x06#5] →
      w.extractLsb' 0 11 ≠ 0#11 → decode w = .error .unusedField) ∧
    (opOf w = 0x10#6 → coOf w = 1#1 → functOf w ∈ [0x01#6, 0x02#6, 0x06#6, 0x08#6, 0x10#6] →
      w.extractLsb' 6 19 ≠ 0#19 → decode w = .error .unusedField)

/-! ## The instruction cycle -/

/-- A step whose fetch reaches four bytes that decode runs exactly the decoded instruction, in the state with
this step's inputs sampled (10_state.md R28, 20_memory.md R74). -/
def Obligations.StepRunsDecoded : Prop :=
  ∀ (s : State) (pa : Word) (i : Instr), NoInterrupt s → FetchReady s pa →
    decodeBytes [Memory.readByte s.mem pa, Memory.readByte s.mem (pa + 1#32), Memory.readByte s.mem (pa + 2#32),
      Memory.readByte s.mem (pa + 3#32)] = .ok i →
    step s = exec i s.beginStep

/-- A step whose four bytes do not decode stops by the treatment of 93_implementation_defined.md U4 to U7, U12
and U13; the undefined coprocessor sub-operations raise CpU first (47_coprocessor.md R235). -/
def Obligations.StepOfRejectedWord : Prop :=
  ∀ (s : State) (pa : Word) (e : DecodeError), NoInterrupt s → FetchReady s pa →
    decodeBytes [Memory.readByte s.mem pa, Memory.readByte s.mem (pa + 1#32), Memory.readByte s.mem (pa + 2#32),
      Memory.readByte s.mem (pa + 3#32)] = .error e →
    (e = .unusedField → step s = .refused .unusedField) ∧
    (e = .jalrSameRegister → step s = .refused .jalrSameRegister) ∧
    (e = .linkBranchOn31 → step s = .refused .linkBranchOn31) ∧
    (e = .bcondZ → step s = .fault .unassignedBcondZ) ∧
    (∀ z, e = .copSub z → s.usable z = false → step s = .next (s.beginStep.takeException (.cpu z))) ∧
    (∀ z, e = .copSub z → s.usable z = true → z = 0#2 ∨ z = 2#2 → step s = .fault .unassignedCopSub) ∧
    (∀ z, e = .copSub z → s.usable z = true → z = 1#2 ∨ z = 3#2 → step s = .fault .absentCoprocessor) ∧
    (e = .cop0Function → s.usable 0#2 = false → step s = .next (s.beginStep.takeException (.cpu 0#2))) ∧
    (e = .cop0Function → s.usable 0#2 = true → step s = .fault .unassignedCop0Function)

/-- Step S1: Cause.IP[7:2] shows the six lines, Random holds some value in 8..63 with its other bits 0, and
nothing else of the spec's state changes. That Random is drawn anew at each step and the lines come from a
list are the model's choices (logs 7, 8, 9; 10_state.md R28, R33, 60_exceptions.md R280). -/
def Obligations.BeginStepSamples : Prop :=
  ∀ s : State,
    (∀ k, k < 6 → s.beginStep.cp0.cause.getLsbD (10 + k) = (s.intLines.headD 0#6).getLsbD k) ∧
    (∀ k, k < 10 ∨ 16 ≤ k → s.beginStep.cp0.cause.getLsbD k = s.cp0.cause.getLsbD k) ∧
    8 ≤ (s.beginStep.cp0.random.extractLsb' 8 6).toNat ∧ s.beginStep.cp0.random &&& 0xFFFFC0FF#32 = 0#32 ∧
    s.beginStep =
      { s with cp0 := { s.cp0 with cause := s.beginStep.cp0.cause, random := s.beginStep.cp0.random },
               intLines := s.intLines.tail, tick := s.tick + 1 }

/-- An interrupt is taken at the start of a step exactly when IEc is 1 and a request bit of Cause.IP is enabled
in SR.IM; then no instruction executes (60_exceptions.md R280, 10_state.md R28 S2). -/
def Obligations.InterruptTaken : Prop :=
  ∀ s : State,
    ((s.cp0.sr.getLsbD 0 = true ∧
        ∃ k, k < 8 ∧ s.beginStep.cp0.cause.getLsbD (8 + k) = true ∧ s.cp0.sr.getLsbD (8 + k) = true) →
      step s = .next (s.beginStep.takeException .int)) ∧
    (¬(s.cp0.sr.getLsbD 0 = true ∧
        ∃ k, k < 8 ∧ s.beginStep.cp0.cause.getLsbD (8 + k) = true ∧ s.cp0.sr.getLsbD (8 + k) = true) →
      step s = fetchAndRun s.beginStep)

/-- A fetch that does not reach memory, in the order of its checks: a misaligned pc is an Address Error, then
the exceptions of translation and the stop of two hits, then a bus error, then the stop of an unpopulated
address, then the stop of a stale word (20_memory.md R69, R74, R88). -/
def Obligations.FetchDoesNotReach : Prop :=
  ∀ s : State, NoInterrupt s →
    (s.pc.toNat % 4 ≠ 0 → step s = .next (s.beginStep.takeException (.adel s.pc))) ∧
    (s.pc.toNat % 4 = 0 →
      (∀ e, translateAddress s s.pc .fetch = .trap e → step s = .next (s.beginStep.takeException e)) ∧
      (∀ f, translateAddress s s.pc .fetch = .stop f → step s = .fault f) ∧
      (∀ t, translateAddress s s.pc .fetch = .done t →
        (s.platform.busError t.pa .fetch = true → step s = .next (s.beginStep.takeException .ibe)) ∧
        (s.platform.busError t.pa .fetch = false →
          (s.platform.populatedAt t.pa 4 = false → step s = .fault .unpopulated) ∧
          (s.platform.populatedAt t.pa 4 = true → t.cacheable = true → (wordAddress t.pa).toNat ∈ s.written →
            step s = .fault .staleCode))))

/-- The word of every well-formed instruction, placed where the first fetch after reset reads, runs as the
first instruction. The placing is the model's loading of a program (log 21; 70_reset_and_hazards.md R321). -/
def Obligations.PlacedWordRunsAfterReset : Prop :=
  ∀ i : Instr, i.wf = true →
    step (State.reset.withFetchWord 32 (encode i).toNat) =
      exec i (State.reset.withFetchWord 32 (encode i).toNat).beginStep

/-! ## Taking an exception and returning -/

/-- ExceptionEntry, bit by bit, for every exception in every state (60_exceptions.md R290). -/
def Obligations.ExceptionEntry : Prop :=
  ∀ (s : State) (e : Exc),
    let t := s.takeException e
    (s.slot = true → t.cp0.epc = s.pc - 4#32 ∧ t.cp0.cause.getLsbD 31 = true) ∧
    (s.slot = false → t.cp0.epc = s.pc ∧ t.cp0.cause.getLsbD 31 = false) ∧
    t.cp0.cause.extractLsb' 2 5 =
      (match e with
       | .int => 0#5 | .mod _ => 1#5 | .tlbl _ _ => 2#5 | .tlbs _ _ => 3#5 | .adel _ => 4#5 | .ades _ => 5#5
       | .ibe => 6#5 | .dbe => 7#5 | .sys => 8#5 | .bp => 9#5 | .ri => 10#5 | .cpu _ => 11#5 | .ov => 12#5) ∧
    (∀ z, e = .cpu z → t.cp0.cause.extractLsb' 28 2 = z) ∧
    ((∀ z, e ≠ .cpu z) → t.cp0.cause.extractLsb' 28 2 = s.cp0.cause.extractLsb' 28 2) ∧
    (∀ k, k < 2 ∨ (7 ≤ k ∧ k < 28) ∨ k = 30 → t.cp0.cause.getLsbD k = s.cp0.cause.getLsbD k) ∧
    (∀ va r, e ∈ [.adel va, .ades va, .tlbl va r, .tlbs va r, .mod va] → t.cp0.badVAddr = va) ∧
    ((∀ va r, e ∉ [.adel va, .ades va, .tlbl va r, .tlbs va r, .mod va]) → t.cp0.badVAddr = s.cp0.badVAddr) ∧
    (∀ va r, e ∈ [.tlbl va r, .tlbs va r, .mod va] →
      t.cp0.context.extractLsb' 2 19 = va.extractLsb' 12 19 ∧
      t.cp0.context.extractLsb' 21 11 = s.cp0.context.extractLsb' 21 11 ∧
      t.cp0.context.extractLsb' 0 2 = s.cp0.context.extractLsb' 0 2 ∧
      t.cp0.entryHi.extractLsb' 12 20 = va.extractLsb' 12 20 ∧
      t.cp0.entryHi.extractLsb' 0 12 = s.cp0.entryHi.extractLsb' 0 12) ∧
    ((∀ va r, e ∉ [.tlbl va r, .tlbs va r, .mod va]) →
      t.cp0.context = s.cp0.context ∧ t.cp0.entryHi = s.cp0.entryHi) ∧
    t.cp0.sr = (s.cp0.sr &&& 0xFFFFFFC0#32) ||| ((s.cp0.sr <<< 2) &&& 0x0000003C#32) ∧
    t.pc = vector s.cp0.sr e ∧ t.npc = t.pc + 4#32 ∧ t.slot = false ∧ t.ld = none ∧
    t.regs = s.regs ∧ t.hi = s.hi ∧ t.lo = s.lo ∧ t.hiAge = s.hiAge ∧ t.loAge = s.loAge ∧
    t.cp0.index = s.cp0.index ∧ t.cp0.random = s.cp0.random ∧ t.cp0.entryLo = s.cp0.entryLo ∧
    t.tlb = s.tlb ∧ t.c2 = s.c2 ∧ t.mem = s.mem ∧ t.written = s.written ∧ SameWorld s t

/-- Where an exception goes: the UTLB-miss vector for a miss on a kuseg address, the general vector for every
other exception, each by SR.BEV; and a miss is a UTLB miss exactly on a kuseg address (60_exceptions.md R292). -/
def Obligations.ExceptionVectors : Prop :=
  (∀ (s : State) (va : Word), ∀ e ∈ [Exc.tlbl va true, Exc.tlbs va true],
    (s.takeException e).pc = if s.cp0.sr.getLsbD 22 = true then 0xBFC00100#32 else 0x80000000#32) ∧
  (∀ (s : State) (e : Exc), (∀ va, e ∉ [Exc.tlbl va true, Exc.tlbs va true]) →
    (s.takeException e).pc = if s.cp0.sr.getLsbD 22 = true then 0xBFC00180#32 else 0x80000080#32) ∧
  (∀ (s : State) (va : Word) (r : Bool),
    translateAddress s va .load = .trap (.tlbl va r) ∨ translateAddress s va .fetch = .trap (.tlbl va r) ∨
      translateAddress s va .store = .trap (.tlbs va r) →
    (r = true ↔ (∀ i, ¬Matches s i va) ∧ va.msb = false)) ∧
  State.reset.pc = 0xBFC00000#32

/-- RFE: previous to current and old to previous, the old pair and every other bit of SR unchanged, and nothing
else changes (48_cop0.md R256, 60_exceptions.md R294). -/
def Obligations.RfePopsStatus : Prop :=
  ∀ s : State, CopUsable .rfe s →
    ∃ t, exec .rfe s = .next t ∧
      t.cp0 = { s.cp0 with sr := (s.cp0.sr &&& 0xFFFFFFF0#32) ||| ((s.cp0.sr >>> 2) &&& 0x0000000F#32) } ∧
      SameRegs s t ∧ SameHiLo s t ∧ t.tlb = s.tlb ∧ SameMemory s t ∧ SameWorld s t ∧ t.c2 = s.c2 ∧ Advances s t

/-- RFE right after exception entry gives back the current and the previous pair of SR as they were, and every
bit above the stack; the old pair holds what was the previous one (60_exceptions.md R290, R294, R295). -/
def Obligations.RfeUndoesEntry : Prop :=
  ∀ (s : State) (e : Exc),
    ∃ t, exec .rfe (s.takeException e) = .next t ∧
      t.cp0.sr.extractLsb' 0 4 = s.cp0.sr.extractLsb' 0 4 ∧
      t.cp0.sr.extractLsb' 4 2 = s.cp0.sr.extractLsb' 2 2 ∧
      t.cp0.sr.extractLsb' 6 26 = s.cp0.sr.extractLsb' 6 26 ∧ SameRegs s t ∧ t.cp0.epc = (s.takeException e).cp0.epc

/-- SYSCALL, BREAK and the Reserved Instructions raise Sys, Bp and RI in every state, whatever the other bits of the
word (46_special.md R230, R231, 30_encoding.md R116, R121). -/
def Obligations.UnconditionalTraps : Prop :=
  ∀ (code : BitVec 20) (w : Word) (s : State),
    Traps (.syscall code) s .sys ∧ Traps (.brk code) s .bp ∧ Traps (.reserved w) s .ri

/-! ## Computational instructions -/

/-- The immediate instructions that cannot trap (41_computational_immediate.md R162 to R168). -/
def Obligations.ImmediateResults : Prop :=
  ∀ (rt rs : Reg) (imm : Half) (s : State),
    (HazardFree (.addiu rt rs imm) s → Computes (.addiu rt rs imm) s rt (s.x rs + imm.signExtend 32)) ∧
    (HazardFree (.slti rt rs imm) s →
      Computes (.slti rt rs imm) s rt (if (s.x rs).toInt < imm.toInt then 1#32 else 0#32)) ∧
    (HazardFree (.sltiu rt rs imm) s →
      Computes (.sltiu rt rs imm) s rt (if (s.x rs).toNat < (imm.signExtend 32).toNat then 1#32 else 0#32)) ∧
    (HazardFree (.andi rt rs imm) s → Computes (.andi rt rs imm) s rt (s.x rs &&& (0#16 ++ imm))) ∧
    (HazardFree (.ori rt rs imm) s → Computes (.ori rt rs imm) s rt (s.x rs ||| (0#16 ++ imm))) ∧
    (HazardFree (.xori rt rs imm) s → Computes (.xori rt rs imm) s rt (s.x rs ^^^ (0#16 ++ imm))) ∧
    Computes (.lui rt imm) s rt (imm ++ 0#16)

/-- The three-operand instructions that cannot trap (42_three_operand_register.md R172, R174 to R180). -/
def Obligations.ThreeOperandResults : Prop :=
  ∀ (rd rs rt : Reg) (s : State), s.ld ≠ some rs → s.ld ≠ some rt →
    Computes (.addu rd rs rt) s rd (s.x rs + s.x rt) ∧
    Computes (.subu rd rs rt) s rd (s.x rs - s.x rt) ∧
    Computes (.slt rd rs rt) s rd (if (s.x rs).toInt < (s.x rt).toInt then 1#32 else 0#32) ∧
    Computes (.sltu rd rs rt) s rd (if (s.x rs).toNat < (s.x rt).toNat then 1#32 else 0#32) ∧
    Computes (.and rd rs rt) s rd (s.x rs &&& s.x rt) ∧
    Computes (.or rd rs rt) s rd (s.x rs ||| s.x rt) ∧
    Computes (.xor rd rs rt) s rd (s.x rs ^^^ s.x rt) ∧
    Computes (.nor rd rs rt) s rd (~~~(s.x rs ||| s.x rt))

/-- ADDI, ADD and SUB: the exact signed result where it fits 32 bits, exception Ov and no write where it does not
(41_computational_immediate.md R161, 42_three_operand_register.md R171, R173, 60_exceptions.md R275). -/
def Obligations.TrappingArithmetic : Prop :=
  ∀ (rd rs rt : Reg) (imm : Half) (s : State), s.ld ≠ some rs →
    ((let n := (s.x rs).toInt + imm.toInt
      (-(2 ^ 31) ≤ n ∧ n < 2 ^ 31 → ∃ v : Word, v.toInt = n ∧ Computes (.addi rd rs imm) s rd v) ∧
      (n < -(2 ^ 31) ∨ 2 ^ 31 ≤ n → Traps (.addi rd rs imm) s .ov)) ∧
    (s.ld ≠ some rt →
      (let n := (s.x rs).toInt + (s.x rt).toInt
       (-(2 ^ 31) ≤ n ∧ n < 2 ^ 31 → ∃ v : Word, v.toInt = n ∧ Computes (.add rd rs rt) s rd v) ∧
       (n < -(2 ^ 31) ∨ 2 ^ 31 ≤ n → Traps (.add rd rs rt) s .ov)) ∧
      (let n := (s.x rs).toInt - (s.x rt).toInt
       (-(2 ^ 31) ≤ n ∧ n < 2 ^ 31 → ∃ v : Word, v.toInt = n ∧ Computes (.sub rd rs rt) s rd v) ∧
       (n < -(2 ^ 31) ∨ 2 ^ 31 ≤ n → Traps (.sub rd rs rt) s .ov))))

/-- The shifts as arithmetic on exact integers: left multiplies modulo 2^32, the two right shifts divide and round
down, unsigned and signed; the variable forms take the low five bits of rs (43_shift.md R185 to R191). -/
def Obligations.ShiftResults : Prop :=
  ∀ (rd rt rs : Reg) (shamt : BitVec 5) (s : State), s.ld ≠ some rt →
    ((∃ v : Word, v.toNat = (s.x rt).toNat * 2 ^ shamt.toNat % 2 ^ 32 ∧ Computes (.sll rd rt shamt) s rd v) ∧
    (∃ v : Word, v.toNat = (s.x rt).toNat / 2 ^ shamt.toNat ∧ Computes (.srl rd rt shamt) s rd v) ∧
    (∃ v : Word, v.toInt = (s.x rt).toInt / 2 ^ shamt.toNat ∧ Computes (.sra rd rt shamt) s rd v) ∧
    (s.ld ≠ some rs →
      (∃ v : Word, v.toNat = (s.x rt).toNat * 2 ^ ((s.x rs).toNat % 32) % 2 ^ 32 ∧ Computes (.sllv rd rt rs) s rd v) ∧
      (∃ v : Word, v.toNat = (s.x rt).toNat / 2 ^ ((s.x rs).toNat % 32) ∧ Computes (.srlv rd rt rs) s rd v) ∧
      (∃ v : Word, v.toInt = (s.x rt).toInt / 2 ^ ((s.x rs).toNat % 32) ∧ Computes (.srav rd rt rs) s rd v)))

/-! ## Multiply and divide -/

/-- MULT and MULTU: HI and LO together are the exact 64-bit product (44_multiply_divide.md R195, R196, R204). -/
def Obligations.MultiplyProduct : Prop :=
  ∀ (rs rt : Reg) (s : State), s.ld ≠ some rs → s.ld ≠ some rt → s.hiAge = 0 → s.loAge = 0 →
    (∃ t, exec (.mult rs rt) s = .next t ∧ (t.hi ++ t.lo).toInt = (s.x rs).toInt * (s.x rt).toInt ∧
      SameRegs s t ∧ SameSystem s t ∧ SameMemory s t ∧ SameWorld s t ∧ t.c2 = s.c2 ∧ Advances s t) ∧
    (∃ t, exec (.multu rs rt) s = .next t ∧ (t.hi ++ t.lo).toNat = (s.x rs).toNat * (s.x rt).toNat ∧
      SameRegs s t ∧ SameSystem s t ∧ SameMemory s t ∧ SameWorld s t ∧ t.c2 = s.c2 ∧ Advances s t)

/-- DIV and DIVU with a defined quotient: dividend = quotient * divisor + remainder, the remainder smaller than
the divisor, for DIV with the sign of the dividend (44_multiply_divide.md R197, R198, R204). -/
def Obligations.DivideQuotientRemainder : Prop :=
  ∀ (rs rt : Reg) (s : State), s.ld ≠ some rs → s.ld ≠ some rt → s.hiAge = 0 → s.loAge = 0 → s.x rt ≠ 0#32 →
    (¬(s.x rs = 0x80000000#32 ∧ s.x rt = 0xFFFFFFFF#32) →
      ∃ t, exec (.div rs rt) s = .next t ∧
        (s.x rs).toInt = t.lo.toInt * (s.x rt).toInt + t.hi.toInt ∧ t.hi.toInt.natAbs < (s.x rt).toInt.natAbs ∧
        (0 ≤ (s.x rs).toInt → 0 ≤ t.hi.toInt) ∧ ((s.x rs).toInt ≤ 0 → t.hi.toInt ≤ 0) ∧
        SameRegs s t ∧ SameSystem s t ∧ SameMemory s t ∧ SameWorld s t ∧ t.c2 = s.c2 ∧ Advances s t) ∧
    (∃ t, exec (.divu rs rt) s = .next t ∧
      (s.x rs).toNat = t.lo.toNat * (s.x rt).toNat + t.hi.toNat ∧ t.hi.toNat < (s.x rt).toNat ∧
      SameRegs s t ∧ SameSystem s t ∧ SameMemory s t ∧ SameWorld s t ∧ t.c2 = s.c2 ∧ Advances s t)

/-- The division corner cases complete without an exception: HI and LO are one open function of the operands,
and no other state changes (44_multiply_divide.md R199; log 10). -/
def Obligations.DivideCorner : Prop :=
  ∀ (rs rt : Reg) (s : State), s.ld ≠ some rs → s.ld ≠ some rt → s.hiAge = 0 → s.loAge = 0 →
    (s.x rt = 0#32 ∨ (s.x rs = 0x80000000#32 ∧ s.x rt = 0xFFFFFFFF#32) →
      ∃ t, exec (.div rs rt) s = .next t ∧ (t.hi, t.lo) = Config.divCorner .signed (s.x rs) (s.x rt) ∧
        SameRegs s t ∧ SameSystem s t ∧ SameMemory s t ∧ SameWorld s t ∧ t.c2 = s.c2 ∧ Advances s t) ∧
    (s.x rt = 0#32 →
      ∃ t, exec (.divu rs rt) s = .next t ∧ (t.hi, t.lo) = Config.divCorner .unsigned (s.x rs) (s.x rt) ∧
        SameRegs s t ∧ SameSystem s t ∧ SameMemory s t ∧ SameWorld s t ∧ t.c2 = s.c2 ∧ Advances s t)

/-- MFHI, MFLO, MTHI and MTLO: the move, and the two instructions during which the source may not be written
(44_multiply_divide.md R200 to R203, 10_state.md R29). -/
def Obligations.MovesOfHiAndLo : Prop :=
  ∀ (r : Reg) (s : State),
    (∃ t, exec (.mfhi r) s = .next t ∧ RegsAfter s t r s.hi ∧ SameRest s t ∧ t.pc = s.npc ∧ t.npc = s.npc + 4#32 ∧
      t.slot = false ∧ t.ld = none ∧ t.hiAge = 2 ∧ t.loAge = s.loAge - 1) ∧
    (∃ t, exec (.mflo r) s = .next t ∧ RegsAfter s t r s.lo ∧ SameRest s t ∧ t.pc = s.npc ∧ t.npc = s.npc + 4#32 ∧
      t.slot = false ∧ t.ld = none ∧ t.hiAge = s.hiAge - 1 ∧ t.loAge = 2) ∧
    (s.ld ≠ some r → s.hiAge = 0 →
      ∃ t, exec (.mthi r) s = .next t ∧ t.hi = s.x r ∧ t.lo = s.lo ∧ SameRegs s t ∧ SameSystem s t ∧ SameMemory s t ∧
        SameWorld s t ∧ t.c2 = s.c2 ∧ Advances s t) ∧
    (s.ld ≠ some r → s.loAge = 0 →
      ∃ t, exec (.mtlo r) s = .next t ∧ t.lo = s.x r ∧ t.hi = s.hi ∧ SameRegs s t ∧ SameSystem s t ∧ SameMemory s t ∧
        SameWorld s t ∧ t.c2 = s.c2 ∧ Advances s t)

/-- Only MULT, MULTU, DIV, DIVU and MTHI change HI, and only the first four and MTLO change LO
(10_state.md R24, 44_multiply_divide.md R204). -/
def Obligations.HiLoWriters : Prop :=
  ∀ (i : Instr) (s t : State), exec i s = .next t →
    (t.hi ≠ s.hi → ∃ rs rt, i ∈ [.mult rs rt, .multu rs rt, .div rs rt, .divu rs rt, .mthi rs]) ∧
    (t.lo ≠ s.lo → ∃ rs rt, i ∈ [.mult rs rt, .multu rs rt, .div rs rt, .divu rs rt, .mtlo rs])

/-- A write of HI or LO within two instructions after its MFHI or MFLO is a fault
(44_multiply_divide.md R205, 70_reset_and_hazards.md R332). -/
def Obligations.HiLoHazardFaults : Prop :=
  ∀ (rs rt : Reg) (s : State), s.ld ≠ some rs →
    (s.ld ≠ some rt → 0 < s.hiAge ∨ 0 < s.loAge →
      ∀ i ∈ [Instr.mult rs rt, Instr.multu rs rt, Instr.div rs rt, Instr.divu rs rt], exec i s = .fault .hiLoHazard) ∧
    (0 < s.hiAge → exec (.mthi rs) s = .fault .hiLoHazard) ∧ (0 < s.loAge → exec (.mtlo rs) s = .fault .hiLoHazard)

/-! ## Loads and stores -/

/-- The loads of a byte, a halfword and a word, little-endian and extended as each says, with rt in its load delay
(40_load_store.md R141 to R145, R156, 20_memory.md R64). -/
def Obligations.LoadResults : Prop :=
  ∀ (rt base : Reg) (offset : Half) (s : State) (pa : Word), s.ld ≠ some base →
    let va := effectiveAddress (s.x base) offset
    let byte := fun k : Nat => Memory.read s.mem (pa.toNat + k)
    (LoadReady s va 1 pa →
      Loads (.lb rt base offset) s rt ((byte 0).signExtend 32) ∧ Loads (.lbu rt base offset) s rt (0#24 ++ byte 0)) ∧
    (LoadReady s va 2 pa → va.toNat % 2 = 0 →
      Loads (.lh rt base offset) s rt ((byte 1 ++ byte 0).signExtend 32) ∧
      Loads (.lhu rt base offset) s rt (0#16 ++ byte 1 ++ byte 0)) ∧
    (LoadReady s va 4 pa → va.toNat % 4 = 0 →
      Loads (.lw rt base offset) s rt (byte 3 ++ byte 2 ++ byte 1 ++ byte 0))

/-- LWL and LWR byte by byte: with k = va[1:0], LWL puts bytes 0..k of the aligned word into the top of rt, LWR
puts bytes k..3 into the bottom; the other bytes keep rt, which a load just before may have written
(40_load_store.md R146, R147, R156). -/
def Obligations.LoadMergeResults : Prop :=
  ∀ (rt base : Reg) (offset : Half) (s : State) (pa : Word), s.ld ≠ some base →
    let va := effectiveAddress (s.x base) offset
    let k := va.toNat % 4
    LoadReady s (wordAddress va) 4 pa →
    (∃ v : Word,
      (∀ j, j < 4 → v.extractLsb' (8 * j) 8 =
        if 3 ≤ j + k then Memory.read s.mem (pa.toNat + (j + k - 3)) else (s.x rt).extractLsb' (8 * j) 8) ∧
      Loads (.lwl rt base offset) s rt v) ∧
    (∃ v : Word,
      (∀ j, j < 4 → v.extractLsb' (8 * j) 8 =
        if j + k < 4 then Memory.read s.mem (pa.toNat + (j + k)) else (s.x rt).extractLsb' (8 * j) 8) ∧
      Loads (.lwr rt base offset) s rt v)

/-- SB, SH and SW write the low bytes of rt in little-endian order at the translated address and nothing else
(40_load_store.md R149 to R151, 20_memory.md R64, R73). -/
def Obligations.StoreResults : Prop :=
  ∀ (rt base : Reg) (offset : Half) (s : State) (pa : Word), s.ld ≠ some base → s.ld ≠ some rt →
    let va := effectiveAddress (s.x base) offset
    (StoreReady s va 1 pa → Stores (.sb rt base offset) s pa (bytesAt pa 1 (s.x rt))) ∧
    (StoreReady s va 2 pa → va.toNat % 2 = 0 → Stores (.sh rt base offset) s pa (bytesAt pa 2 (s.x rt))) ∧
    (StoreReady s va 4 pa → va.toNat % 4 = 0 → Stores (.sw rt base offset) s pa (bytesAt pa 4 (s.x rt)))

/-- SWL writes the high k+1 bytes of rt to the aligned word from its start to va, SWR the low 4-k bytes from va to
its end, with k = va[1:0]; the other bytes of the word keep their values (40_load_store.md R152, R153). -/
def Obligations.StoreMergeResults : Prop :=
  ∀ (rt base : Reg) (offset : Half) (s : State) (pa : Word), s.ld ≠ some base → s.ld ≠ some rt →
    let va := effectiveAddress (s.x base) offset
    let k := va.toNat % 4
    (StoreReady s (wordAddress va) (k + 1) pa →
      Stores (.swl rt base offset) s pa fun a =>
        if pa.toNat ≤ a ∧ a ≤ pa.toNat + k then some ((s.x rt).extractLsb' (8 * (3 - k + (a - pa.toNat))) 8) else none) ∧
    (StoreReady s va (4 - k) pa →
      Stores (.swr rt base offset) s pa fun a =>
        if pa.toNat ≤ a ∧ a < pa.toNat + (4 - k) then some ((s.x rt).extractLsb' (8 * (a - pa.toNat)) 8) else none)

/-- The unaligned pairs, in either order, with A and A + 3 addressed by two offsets: LWR and LWL load the four
bytes A..A+3 into rt, SWR and SWL store rt to exactly those bytes (40_load_store.md R148, R154). -/
def Obligations.UnalignedPairs : Prop :=
  ∀ (rt base : Reg) (o o' : Half) (s : State) (p q : Word), s.ld ≠ some base →
    let va := effectiveAddress (s.x base) o
    let k := va.toNat % 4
    effectiveAddress (s.x base) o' = va + 3#32 →
    (LoadReady s (wordAddress va) 4 p → LoadReady s (wordAddress (va + 3#32)) 4 q → rt ≠ 0#5 → rt ≠ base →
      ∀ ij ∈ [(Instr.lwr rt base o, Instr.lwl rt base o'), (Instr.lwl rt base o', Instr.lwr rt base o)],
        ∃ t u, exec ij.1 s = .next t ∧ exec ij.2 t = .next u ∧
          (∀ j, j < 4 → (u.x rt).extractLsb' (8 * j) 8 =
            Memory.read s.mem (if k + j < 4 then p.toNat + (k + j) else q.toNat + (k + j - 4))) ∧
          (∀ r, r ≠ rt → u.x r = s.x r) ∧ SameRest s u) ∧
    (StoreReady s va (4 - k) p → StoreReady s (wordAddress (va + 3#32)) ((va + 3#32).toNat % 4 + 1) q →
      s.ld ≠ some rt →
      let home := fun j : Nat => if k + j < 4 then p.toNat + j else q.toNat + (k + j - 4)
      ∀ ij ∈ [(Instr.swr rt base o, Instr.swl rt base o'), (Instr.swl rt base o', Instr.swr rt base o)],
        ∃ t u, exec ij.1 s = .next t ∧ exec ij.2 t = .next u ∧
          (∀ j, j < 4 → Memory.read u.mem (home j) = (s.x rt).extractLsb' (8 * j) 8) ∧
          (∀ a, (∀ j, j < 4 → a ≠ home j) → Memory.read u.mem a = Memory.read s.mem a) ∧
          SameRegs s u ∧ SameHiLo s u ∧ SameSystem s u ∧ SameWorld s u ∧ u.c2 = s.c2)

/-- A misaligned access takes the Address Error of its kind with the address it used; nothing of the instruction
happens (20_memory.md R66, R67, 60_exceptions.md R272). That LWCz and SWCz of the coprocessors 0, 1 and 3, where SR
marks them usable, take it before they stop is the model's reading of 47_coprocessor.md R235 to R237 (log 15). -/
def Obligations.MisalignedAccessTraps : Prop :=
  ∀ (i : Instr) (s : State) (kind : AccessKind) (va : Word), checkedAddress i s = some (kind, va) →
    HazardFree i s → CopUsable i s → va.toNat % alignmentOf i ≠ 0 →
    (kind = .load → Traps i s (.adel va)) ∧ (kind = .store → Traps i s (.ades va))

/-- An aligned data access that does not reach memory, in the order of its checks: the exceptions of translation
and the stop of two hits, then DBE, then the stop of an unpopulated or, for a store, unwritable address. Of an
SWC2 that ends in a bus error it says that nothing happened but, perhaps, the read of the coprocessor, which
47_coprocessor.md R237 and 60_exceptions.md R271 leave open between them (20_memory.md R72, R73, R75, R77). Four
points are the model's choice or reading of the spec: to leave that open (log 14), the exceptions that LWC0, LWC1 and
LWC3 take before they stop (log 15), the bus error tested at the first byte of the access
(log 32), and the address that LWL, LWR and SWL present and record (log 33). -/
def Obligations.DataAccessDoesNotReach : Prop :=
  ∀ (i : Instr) (s : State) (kind : AccessKind) (va : Word) (n : Nat), dataAccess i s = some (kind, va, n) →
    HazardFree i s → CopUsable i s → va.toNat % alignmentOf i = 0 →
    (∀ e, translateAddress s va kind = .trap e → Traps i s e) ∧
    (∀ f, translateAddress s va kind = .stop f → exec i s = .fault f) ∧
    (∀ t, translateAddress s va kind = .done t → s.cp0.sr.getLsbD 16 = false →
      (s.platform.busError t.pa kind = true → (∀ rt b o, i ≠ .swc2 rt b o) → Traps i s .dbe) ∧
      (s.platform.busError t.pa kind = true → ∀ rt b o, i = .swc2 rt b o →
        ∃ c, (c = s.c2 ∨ c = (Config.cop2ReadData s.c2 rt).2) ∧
          exec i s = .next ({ s with c2 := c }.takeException .dbe)) ∧
      (s.platform.busError t.pa kind = false →
        (if kind = .store then s.platform.writableAt t.pa n else s.platform.populatedAt t.pa n) = false →
        exec i s = .fault .unpopulated))

/-- With the cache isolated (SR.IsC = 1) every aligned and translated load and store completes: a load gives some
value, to the rt of its own word or to coprocessor 2, and a store changes neither memory nor W (20_memory.md R91; log 13). -/
def Obligations.IsolatedCacheAccess : Prop :=
  ∀ (i : Instr) (s : State) (kind : AccessKind) (va : Word) (n : Nat) (pa : Translated),
    dataAccess i s = some (kind, va, n) → HazardFree i s → CopUsable i s →
    coprocessorOf i = none ∨ coprocessorOf i = some 2#2 → va.toNat % alignmentOf i = 0 →
    translateAddress s va kind = .done pa → s.cp0.sr.getLsbD 16 = true →
    ∃ t, exec i s = .next t ∧ SameHiLo s t ∧ SameSystem s t ∧ SameMemory s t ∧ SameWorld s t ∧
      (coprocessorOf i = none → t.c2 = s.c2) ∧
      (kind = .store ∨ coprocessorOf i = some 2#2 → SameRegs s t ∧ Advances s t) ∧
      (kind = .load → coprocessorOf i = none →
        ∃ rt v, loadTarget i = some rt ∧ RegsAfter s t rt v ∧ AdvancesLoad s t rt)

/-- A store of a word is seen by a load of the same word in the very next instruction, whatever register takes it
(20_memory.md R64, R86). -/
def Obligations.StoreSeenByNextLoad : Prop :=
  ∀ (rt base rd : Reg) (offset : Half) (s : State) (pa : Word), s.ld ≠ some base → s.ld ≠ some rt → rd ≠ 0#5 →
    let va := effectiveAddress (s.x base) offset
    StoreReady s va 4 pa → LoadReady s va 4 pa → va.toNat % 4 = 0 →
    ∃ t u, exec (.sw rt base offset) s = .next t ∧ exec (.lw rd base offset) t = .next u ∧ u.x rd = s.x rt

/-! ## Translation -/

/-- In kseg0 and kseg1 the physical address is the low 29 bits of the virtual one; the TLB is not consulted and no TLB
exception can occur (20_memory.md R79). In user mode they, and kseg2, are an Address Error; in kernel mode both
translate, kseg0 cacheable and kseg1 not (R78). -/
def Obligations.UnmappedSegments : Prop :=
  ∀ (s : State) (va : Word) (kind : AccessKind),
    (va.extractLsb' 30 2 = 0b10#2 →
      (∀ tlb : Vector TlbEntry Config.tlbEntries, translateAddress { s with tlb := tlb } va kind = translateAddress s va kind) ∧
      (∀ t, translateAddress s va kind = .done t → t.pa = 0#3 ++ va.extractLsb' 0 29) ∧
      (∀ f, translateAddress s va kind ≠ .stop f) ∧
      (∀ e, translateAddress s va kind = .trap e → ∀ r, e ∉ [.tlbl va r, .tlbs va r, .mod va])) ∧
    (s.cp0.sr.getLsbD 1 = true → va.getLsbD 31 = true →
      translateAddress s va kind = .trap (if kind = .store then .ades va else .adel va)) ∧
    (s.cp0.sr.getLsbD 1 = false → 0x80000000 ≤ va.toNat → va.toNat < 0xC0000000 →
      ∃ t, translateAddress s va kind = .done t ∧ (t.cacheable = true ↔ va.toNat < 0xA0000000))

/-- The walk of the mapped segments: no match, one match that is invalid, one match that may not be written, one
match that translates, or two matches (20_memory.md R80, R82). -/
def Obligations.MappedTranslation : Prop :=
  ∀ (s : State) (va : Word) (kind : AccessKind), s.cp0.sr.getLsbD 1 = false ∨ va.getLsbD 31 = false →
    va.extractLsb' 30 2 ≠ 0b10#2 →
    ((∀ i, ¬Matches s i va) →
      translateAddress s va kind = .trap (if kind = .store then .tlbs va (!va.getLsbD 31) else .tlbl va (!va.getLsbD 31))) ∧
    (∀ i, Matches s i va → (∀ j, Matches s j va → j = i) →
      ((s.tlb.get i).lo.getLsbD 9 = false →
        translateAddress s va kind = .trap (if kind = .store then .tlbs va false else .tlbl va false)) ∧
      ((s.tlb.get i).lo.getLsbD 9 = true → kind = .store → (s.tlb.get i).lo.getLsbD 10 = false →
        translateAddress s va kind = .trap (.mod va)) ∧
      ((s.tlb.get i).lo.getLsbD 9 = true → (kind = .store → (s.tlb.get i).lo.getLsbD 10 = true) →
        ∃ t, translateAddress s va kind = .done t ∧ t.pa = (s.tlb.get i).lo.extractLsb' 12 20 ++ va.extractLsb' 0 12 ∧
          (t.cacheable = true ↔ (s.tlb.get i).lo.getLsbD 11 = false))) ∧
    (∀ i j, Matches s i va → Matches s j va → i ≠ j → translateAddress s va kind = .stop .multipleTlbMatch)

/-- What a TLB exception writes besides the common entry: BadVAddr, Context.BadVPN and EntryHi.VPN, with
EntryHi.ASID unchanged (20_memory.md R81). -/
def Obligations.TlbExceptionState : Prop :=
  ∀ (s : State) (va : Word) (r : Bool), ∀ e ∈ [Exc.tlbl va r, Exc.tlbs va r, Exc.mod va],
    (s.takeException e).cp0.badVAddr = va ∧
    (s.takeException e).cp0.context.extractLsb' 2 19 = va.extractLsb' 12 19 ∧
    (s.takeException e).cp0.entryHi.extractLsb' 12 20 = va.extractLsb' 12 20 ∧
    (s.takeException e).cp0.entryHi.extractLsb' 6 6 = s.cp0.entryHi.extractLsb' 6 6

/-! ## Jumps and branches -/

/-- J and JR: the instruction in the delay slot is next, then the target (45_jump_branch.md R210, R212, R222, R224). -/
def Obligations.JumpResults : Prop :=
  ∀ (target : BitVec 26) (rs : Reg) (s : State), s.slot = false →
    Jumps (.j target) s True ((s.pc + 4#32).extractLsb' 28 4 ++ target ++ 0#2) ∧
    (s.ld ≠ some rs → Jumps (.jr rs) s True (s.x rs))

/-- The linking jumps and branches write pc + 8, r31 for all but JALR, and the two branches write it whether or not
they are taken; the forms whose link register is their source are refused (45_jump_branch.md R211, R213, R220,
R221, R225, R227). -/
def Obligations.LinkResults : Prop :=
  ∀ (target : BitVec 26) (rs rd : Reg) (offset : Half) (s : State),
    (s.slot = false → Links (.jal target) s 31#5 True ((s.pc + 4#32).extractLsb' 28 4 ++ target ++ 0#2)) ∧
    (s.slot = false → s.ld ≠ some rs → rs ≠ rd ∨ rd = 0#5 → Links (.jalr rs rd) s rd True (s.x rs)) ∧
    (rs = rd → rd ≠ 0#5 → exec (.jalr rs rd) s = .refused .jalrSameRegister) ∧
    (s.slot = false → s.ld ≠ some rs → rs ≠ 31#5 →
      Links (.bltzal rs offset) s 31#5 ((s.x rs).toInt < 0) (s.pc + 4#32 + (offset ++ 0#2).signExtend 32) ∧
      Links (.bgezal rs offset) s 31#5 (0 ≤ (s.x rs).toInt) (s.pc + 4#32 + (offset ++ 0#2).signExtend 32)) ∧
    (rs = 31#5 →
      exec (.bltzal rs offset) s = .refused .linkBranchOn31 ∧ exec (.bgezal rs offset) s = .refused .linkBranchOn31)

/-- The branches without link: their conditions, and the target at the delay slot's address plus the offset in words
(45_jump_branch.md R214 to R219, R223, R229). -/
def Obligations.BranchResults : Prop :=
  ∀ (rs rt : Reg) (offset : Half) (s : State), s.slot = false → s.ld ≠ some rs →
    let target := s.pc + 4#32 + (offset ++ 0#2).signExtend 32
    (s.ld ≠ some rt →
      Jumps (.beq rs rt offset) s (s.x rs = s.x rt) target ∧ Jumps (.bne rs rt offset) s (s.x rs ≠ s.x rt) target) ∧
    Jumps (.blez rs offset) s ((s.x rs).toInt ≤ 0) target ∧ Jumps (.bgtz rs offset) s (0 < (s.x rs).toInt) target ∧
    Jumps (.bltz rs offset) s ((s.x rs).toInt < 0) target ∧ Jumps (.bgez rs offset) s (0 ≤ (s.x rs).toInt) target

/-- A jump or branch in a delay slot never completes: it is a fault, before any effect of the instruction
(70_reset_and_hazards.md R334). A load-delay fault of the same step has its own name (log 19). -/
def Obligations.JumpInDelaySlotFaults : Prop :=
  ∀ (i : Instr) (s : State), isJump i = true → i.wf = true → s.slot = true →
    (∃ f, exec i s = .fault f) ∧ ((∀ r ∈ delayedSources i, s.ld ≠ some r) → exec i s = .fault .branchInDelaySlot)

/-- An instruction that reads the register the one before it loaded is a fault; LWL and LWR may merge with it
(70_reset_and_hazards.md R330, R331). -/
def Obligations.LoadDelayFaults : Prop :=
  ∀ (i : Instr) (s : State) (r : Reg), i.wf = true → s.ld = some r → r ∈ delayedSources i →
    exec i s = .fault .loadDelay

/-! ## The whole machine -/

/-- Exceptions are precise: an instruction that reaches a next state has either completed, and the instruction at npc
is next, or taken one exception and done nothing else; only an SWC2 with a bus error may besides have read its coprocessor, which
the spec leaves open (10_state.md R28, 60_exceptions.md R271, 47_coprocessor.md R237; log 14). -/
def Obligations.PreciseExceptions : Prop :=
  ∀ (i : Instr) (s t : State), exec i s = .next t →
    (t.pc = s.npc ∧ t.slot = isJump i ∧ (isJump i = false → t.npc = s.npc + 4#32)) ∨
    (∃ e, t = s.takeException e) ∨
    (∃ rt base offset, i = .swc2 rt base offset ∧
      t = { s with c2 := (Config.cop2ReadData s.c2 rt).2 }.takeException .dbe)

/-- Only the stores and SWC2 change memory or W (20_memory.md R61). -/
def Obligations.MemoryWriters : Prop :=
  ∀ (i : Instr) (s t : State), exec i s = .next t → writesMemory i = false → SameMemory s t

/-- What user mode without coprocessor 0 cannot change: the TLB and coprocessor 0 are as before, unless the
instruction takes an exception, whose entry is then all of the change (60_exceptions.md R310, 48_cop0.md R257). -/
def Obligations.UserModeKeepsSystemState : Prop :=
  ∀ (i : Instr) (s t : State), s.cp0.sr.getLsbD 1 = true → s.cp0.sr.getLsbD 28 = false → exec i s = .next t →
    t.tlb = s.tlb ∧ (t.cp0 = s.cp0 ∨ ∃ e, t.cp0 = (s.takeException e).cp0 ∧ t.pc = (s.takeException e).pc)

/-- What user mode can change in memory: a byte that changed lies in the page of one valid, writable TLB entry for a
kuseg page that is global or of the current address space (60_exceptions.md R310, 20_memory.md R78, R80). -/
def Obligations.UserModeStoresThroughTlb : Prop :=
  ∀ (i : Instr) (s t : State) (a : Nat), s.cp0.sr.getLsbD 1 = true → exec i s = .next t →
    Memory.read t.mem a ≠ Memory.read s.mem a →
    ∃ j : Fin Config.tlbEntries,
      (s.tlb.get j).lo.getLsbD 9 = true ∧ (s.tlb.get j).lo.getLsbD 10 = true ∧ (s.tlb.get j).hi.getLsbD 31 = false ∧
      ((s.tlb.get j).lo.getLsbD 8 = true ∨ (s.tlb.get j).hi.extractLsb' 6 6 = s.cp0.entryHi.extractLsb' 6 6) ∧
      a / 4096 = ((s.tlb.get j).lo.extractLsb' 12 20).toNat

/-- The mode changes only by exception entry, which goes to kernel mode, by RFE and by an MTC0 to SR
(60_exceptions.md R310). -/
def Obligations.ModeChanges : Prop :=
  ∀ (i : Instr) (s t : State), exec i s = .next t → t.cp0.sr.getLsbD 1 ≠ s.cp0.sr.getLsbD 1 →
    (t.cp0.sr.getLsbD 1 = false ∧ ∃ e, t.cp0 = (s.takeException e).cp0) ∨ i = .rfe ∨ ∃ rt, i = .mtc0 rt 12#5

/-- Every step keeps the invariant: canonical memory and W, the sequential npc outside a delay slot, no R0 in ld, the
hazard counters in 0..2, and the reserved fields of coprocessor 0 and of the TLB (10_state.md R26, R29, R32 to R43). -/
def Obligations.StepKeepsInvariant : Prop :=
  ∀ s t : State, s.Inv → step s = .next t → t.Inv

/-- The invariant holds right after reset (10_state.md R48; the values the spec leaves open are logs 1 to 8, 24). -/
def Obligations.ResetHasInvariant : Prop := State.reset.Inv

/-! ## Coprocessors -/

/-- Every instruction for a coprocessor that is not usable raises CpU with its number, before any other effect
(47_coprocessor.md R235, 48_cop0.md R257). -/
def Obligations.UnusableCoprocessorTraps : Prop :=
  ∀ (i : Instr) (s : State) (z : BitVec 2), coprocessorOf i = some z → s.cp0.sr.getLsbD (28 + z.toNat) = false →
    z ≠ 0#2 ∨ s.cp0.sr.getLsbD 1 = true → HazardFree i s → Traps i s (.cpu z)

/-- The instructions that have no effect to complete stop by name once their coprocessor is marked usable: those for
the absent coprocessors 1 and 3 (47_coprocessor.md R235, U8), the four without a path in coprocessor 0 (R244, U9)
and BC0F and BC0T (R247, U28). The loads stop after the load, the stores after the alignment check (log 15). -/
def Obligations.StopsOfUsableCoprocessors : Prop :=
  ∀ (rt rd : Reg) (offset : Half) (cofun : BitVec 25) (s : State),
    (∀ i ∈ [Instr.mfc1 rt rd, .cfc1 rt rd, .mtc1 rt rd, .ctc1 rt rd, .bc1f offset, .bc1t offset, .cop1 cofun,
        .mfc3 rt rd, .cfc3 rt rd, .mtc3 rt rd, .ctc3 rt rd, .bc3f offset, .bc3t offset, .cop3 cofun],
      CopUsable i s → HazardFree i s → exec i s = .fault .absentCoprocessor) ∧
    (∀ i ∈ [Instr.swc1 rt rd offset, .swc3 rt rd offset], CopUsable i s → HazardFree i s →
      (if (effectiveAddress (s.x rd) offset).toNat % 4 = 0 then exec i s = .fault .absentCoprocessor
       else Traps i s (.ades (effectiveAddress (s.x rd) offset)))) ∧
    (∀ i ∈ [Instr.lwc1 rt rd offset, .lwc3 rt rd offset], CopUsable i s → HazardFree i s →
      (effectiveAddress (s.x rd) offset).toNat % 4 = 0 →
      (∃ pa, LoadReady s (effectiveAddress (s.x rd) offset) 4 pa) → exec i s = .fault .absentCoprocessor) ∧
    (∀ i ∈ [Instr.cfc0 rt rd, .ctc0 rt rd], CopUsable i s → HazardFree i s → exec i s = .refused .noCop0Path) ∧
    (CopUsable (.swc0 rt rd offset) s → HazardFree (.swc0 rt rd offset) s →
      (if (effectiveAddress (s.x rd) offset).toNat % 4 = 0 then exec (.swc0 rt rd offset) s = .refused .noCop0Path
       else Traps (.swc0 rt rd offset) s (.ades (effectiveAddress (s.x rd) offset)))) ∧
    (CopUsable (.lwc0 rt rd offset) s → HazardFree (.lwc0 rt rd offset) s →
      (effectiveAddress (s.x rd) offset).toNat % 4 = 0 →
      (∃ pa, LoadReady s (effectiveAddress (s.x rd) offset) 4 pa) →
      exec (.lwc0 rt rd offset) s = .refused .noCop0Path) ∧
    (∀ i ∈ [Instr.bc0f offset, .bc0t offset], CopUsable i s → HazardFree i s → exec i s = .refused .cop0Condition)

/-- The moves, the operation and the branches of coprocessor 2 act through its interface alone; MFC2 and CFC2 put rt
in its load delay (47_coprocessor.md R238 to R241, R243, R245 to R248, 10_state.md R44; log 4). -/
def Obligations.Cop2Instructions : Prop :=
  ∀ (rt rd : Reg) (offset : Half) (cofun : BitVec 25) (s : State), s.cp0.sr.getLsbD 30 = true →
    (s.ld ≠ some rt →
      (∃ t, exec (.mtc2 rt rd) s = .next t ∧ t.c2 = Config.cop2WriteData s.c2 rd (s.x rt) ∧ SameRegs s t ∧
        SameHiLo s t ∧ SameSystem s t ∧ SameMemory s t ∧ SameWorld s t ∧ Advances s t) ∧
      (∃ t, exec (.ctc2 rt rd) s = .next t ∧ t.c2 = Config.cop2WriteCtl s.c2 rd (s.x rt) ∧ SameRegs s t ∧
        SameHiLo s t ∧ SameSystem s t ∧ SameMemory s t ∧ SameWorld s t ∧ Advances s t)) ∧
    (∃ t, exec (.mfc2 rt rd) s = .next t ∧ RegsAfter s t rt (Config.cop2ReadData s.c2 rd).1 ∧
      t.c2 = (Config.cop2ReadData s.c2 rd).2 ∧
      SameHiLo s t ∧ SameSystem s t ∧ SameMemory s t ∧ SameWorld s t ∧ AdvancesLoad s t rt) ∧
    (∃ t, exec (.cfc2 rt rd) s = .next t ∧ RegsAfter s t rt (Config.cop2ReadCtl s.c2 rd).1 ∧
      t.c2 = (Config.cop2ReadCtl s.c2 rd).2 ∧
      SameHiLo s t ∧ SameSystem s t ∧ SameMemory s t ∧ SameWorld s t ∧ AdvancesLoad s t rt) ∧
    (∃ t, exec (.cop2 cofun) s = .next t ∧ t.c2 = Config.cop2Op s.c2 cofun ∧ SameRegs s t ∧
      SameHiLo s t ∧ SameSystem s t ∧ SameMemory s t ∧ SameWorld s t ∧ Advances s t) ∧
    (s.slot = false →
      Jumps (.bc2f offset) s (Config.cop2Cond s.c2 = false) (s.pc + 4#32 + (offset ++ 0#2).signExtend 32) ∧
      Jumps (.bc2t offset) s (Config.cop2Cond s.c2 = true) (s.pc + 4#32 + (offset ++ 0#2).signExtend 32))

/-- LWC2 hands the addressed word to the coprocessor and writes no general register; SWC2 stores the word the
coprocessor gives at the translated address and nothing else (47_coprocessor.md R236, R237). -/
def Obligations.Cop2LoadAndStore : Prop :=
  ∀ (rt base : Reg) (offset : Half) (s : State) (pa : Word), s.cp0.sr.getLsbD 30 = true → s.ld ≠ some base →
    let va := effectiveAddress (s.x base) offset
    va.toNat % 4 = 0 →
    (LoadReady s va 4 pa →
      ∃ t, exec (.lwc2 rt base offset) s = .next t ∧
        t.c2 = Config.cop2WriteData s.c2 rt (Memory.read s.mem (pa.toNat + 3) ++ Memory.read s.mem (pa.toNat + 2) ++
          Memory.read s.mem (pa.toNat + 1) ++ Memory.read s.mem pa.toNat) ∧
        SameRegs s t ∧ SameHiLo s t ∧ SameSystem s t ∧ SameMemory s t ∧ SameWorld s t ∧ Advances s t) ∧
    (StoreReady s va 4 pa →
      ∃ t, exec (.swc2 rt base offset) s = .next t ∧ t.c2 = (Config.cop2ReadData s.c2 rt).2 ∧
        (∀ a, Memory.read t.mem a =
          (bytesAt pa 4 (Config.cop2ReadData s.c2 rt).1 a).getD (Memory.read s.mem a)) ∧
        (∀ w, w ∈ t.written ↔ w = (wordAddress pa).toNat ∨ w ∈ s.written) ∧
        SameRegs s t ∧ SameHiLo s t ∧ SameSystem s t ∧ SameWorld s t ∧ Advances s t)

/-! ## Coprocessor 0 -/

/-- MTC0 completes for every register the spec names and changes that register's writable fields alone: Index.Index
(with P free, log 12), EntryLo, Context.PTEBase, EntryHi, SR, Cause.IP[1:0]; the others keep their values
(48_cop0.md R250, 10_state.md R31 to R41). -/
def Obligations.Mtc0WritesRegister : Prop :=
  ∀ (rt rd : Reg) (s : State), s.ld ≠ some rt → CopUsable (.mtc0 rt rd) s →
    rd ∈ [0#5, 1#5, 2#5, 4#5, 8#5, 10#5, 12#5, 13#5, 14#5, 15#5] →
    (rd = 12#5 → (s.x rt).getLsbD 25 = false ∧ (s.x rt).getLsbD 17 = false) →
    let v := s.x rt
    ∃ t, exec (.mtc0 rt rd) s = .next t ∧ SameRegs s t ∧ SameHiLo s t ∧ t.tlb = s.tlb ∧ SameMemory s t ∧
      SameWorld s t ∧ t.c2 = s.c2 ∧ Advances s t ∧
      (rd = 0#5 → ∃ p : BitVec 1, t.cp0 = { s.cp0 with index := p ++ 0#17 ++ v.extractLsb' 8 6 ++ 0#8 }) ∧
      (rd = 2#5 → t.cp0 = { s.cp0 with entryLo := v &&& 0xFFFFFF00#32 }) ∧
      (rd = 4#5 → t.cp0 =
        { s.cp0 with context := (v &&& 0xFFE00000#32) ||| (s.cp0.context &&& 0x001FFFFF#32) }) ∧
      (rd = 10#5 → t.cp0 = { s.cp0 with entryHi := v &&& 0xFFFFFFC0#32 }) ∧
      (rd = 12#5 → t.cp0 = { s.cp0 with sr := (s.cp0.sr &&& 0x0DB800C0#32) ||| (v &&& 0xF247FF3F#32) }) ∧
      (rd = 13#5 → t.cp0 =
        { s.cp0 with cause := (s.cp0.cause &&& 0xFFFFFCFF#32) ||| (v &&& 0x00000300#32) }) ∧
      (rd ∈ [1#5, 8#5, 14#5, 15#5] → t.cp0 = s.cp0)

/-- An MTC0 to SR that completes changes exactly bits 5:0, 15:8, 16, 17, 18, 22, 25 and 31:28 to those of rt; every
other bit of SR stays (48_cop0.md R258). One that would set RE (bit 25) or SwC (bit 17) is a fault (10_state.md R38,
20_memory.md R92). -/
def Obligations.StatusWriteMask : Prop :=
  ∀ (rt : Reg) (s : State), CopUsable (.mtc0 rt 12#5) s → s.ld ≠ some rt →
    ((s.x rt).getLsbD 25 = false → (s.x rt).getLsbD 17 = false →
      ∃ t, exec (.mtc0 rt 12#5) s = .next t ∧
        ∀ k, k < 32 → t.cp0.sr.getLsbD k =
          if k ≤ 5 ∨ (8 ≤ k ∧ k ≤ 18) ∨ k = 22 ∨ k = 25 ∨ 28 ≤ k then (s.x rt).getLsbD k else s.cp0.sr.getLsbD k) ∧
    ((s.x rt).getLsbD 25 = true → exec (.mtc0 rt 12#5) s = .fault .reverseEndian) ∧
    ((s.x rt).getLsbD 25 = false → (s.x rt).getLsbD 17 = true → exec (.mtc0 rt 12#5) s = .fault .swapCaches)

/-- MFC0 completes for every register the spec names, with rt in its load delay; Random reads as some value in
8..63 where the state's field is one, and bit 19 of SR as a free value (48_cop0.md R251, 10_state.md R32 to R41;
logs 9, 11, 12). -/
def Obligations.Mfc0ReadsRegister : Prop :=
  ∀ (rt rd : Reg) (s : State), CopUsable (.mfc0 rt rd) s →
    rd ∈ [0#5, 1#5, 2#5, 4#5, 8#5, 10#5, 12#5, 13#5, 14#5, 15#5] →
    ∃ v, Loads (.mfc0 rt rd) s rt v ∧
      (rd = 0#5 → v = s.cp0.index &&& 0x80003F00#32) ∧ (rd = 1#5 → v = s.cp0.random &&& 0x00003F00#32) ∧
      (rd = 2#5 → v = s.cp0.entryLo) ∧ (rd = 4#5 → v = s.cp0.context) ∧ (rd = 8#5 → v = s.cp0.badVAddr) ∧
      (rd = 10#5 → v = s.cp0.entryHi) ∧ (rd = 12#5 → v &&& 0xFFF7FFFF#32 = s.cp0.sr &&& 0xFFF7FFFF#32) ∧
      (rd = 13#5 → v = s.cp0.cause) ∧ (rd = 14#5 → v = s.cp0.epc) ∧ (rd = 15#5 → v &&& 0xFFFF0000#32 = 0#32)

/-- The reserved coprocessor 0 registers have no storage: MFC0 from one and MTC0 to one are faults
(10_state.md R42). -/
def Obligations.ReservedCop0Registers : Prop :=
  ∀ (rt rd : Reg) (s : State), rd ∈ [3#5, 5#5, 6#5, 7#5, 9#5, 11#5] ∨ 16 ≤ rd.toNat →
    (CopUsable (.mfc0 rt rd) s → exec (.mfc0 rt rd) s = .fault .reservedCp0Register) ∧
    (CopUsable (.mtc0 rt rd) s → s.ld ≠ some rt → exec (.mtc0 rt rd) s = .fault .reservedCp0Register)

/-- TLBR, TLBWI and TLBWR: the entry Index or Random names, read into or written from EntryHi and EntryLo, and
nothing else (48_cop0.md R252, R253, R254; the Random field is any value, log 9). -/
def Obligations.TlbReadAndWrite : Prop :=
  ∀ s : State, CopUsable .tlbr s →
    (∃ t, exec .tlbr s = .next t ∧
      (∀ i : Fin Config.tlbEntries, i.val = (s.cp0.index.extractLsb' 8 6).toNat →
        t.cp0 = { s.cp0 with entryHi := (s.tlb.get i).hi, entryLo := (s.tlb.get i).lo }) ∧
      t.tlb = s.tlb ∧ SameRegs s t ∧ SameHiLo s t ∧ SameMemory s t ∧ SameWorld s t ∧ t.c2 = s.c2 ∧ Advances s t) ∧
    (∀ ij ∈ [(Instr.tlbwi, s.cp0.index), (Instr.tlbwr, s.cp0.random)],
      ∃ t, exec ij.1 s = .next t ∧
        (∀ i : Fin Config.tlbEntries, t.tlb.get i =
          if i.val = (ij.2.extractLsb' 8 6).toNat then { hi := s.cp0.entryHi, lo := s.cp0.entryLo } else s.tlb.get i) ∧
        t.cp0 = s.cp0 ∧ SameRegs s t ∧ SameHiLo s t ∧ SameMemory s t ∧ SameWorld s t ∧ t.c2 = s.c2 ∧ Advances s t)

/-- TLBP: the number of the one matching entry with P clear; P set and a free number where none matches; a fault
where two match (48_cop0.md R255; log 12). -/
def Obligations.TlbProbe : Prop :=
  ∀ s : State, CopUsable .tlbp s →
    (∀ i, Matches s i s.cp0.entryHi → (∀ j, Matches s j s.cp0.entryHi → j = i) →
      ∃ t, exec .tlbp s = .next t ∧ t.cp0 = { s.cp0 with index := BitVec.ofNat 32 (256 * i.val) } ∧
        t.tlb = s.tlb ∧ SameRegs s t ∧ SameHiLo s t ∧ SameMemory s t ∧ SameWorld s t ∧ t.c2 = s.c2 ∧ Advances s t) ∧
    ((∀ i, ¬Matches s i s.cp0.entryHi) →
      ∃ t, exec .tlbp s = .next t ∧ (∃ f : BitVec 6, t.cp0 = { s.cp0 with index := 1#1 ++ 0#17 ++ f ++ 0#8 }) ∧
        t.tlb = s.tlb ∧ SameRegs s t ∧ SameHiLo s t ∧ SameMemory s t ∧ SameWorld s t ∧ t.c2 = s.c2 ∧ Advances s t) ∧
    (∀ i j, Matches s i s.cp0.entryHi → Matches s j s.cp0.entryHi → i ≠ j →
      exec .tlbp s = .fault .multipleTlbMatch)

end Slice0
end

