-- ==== Sys2Proof/Laws/Configuration.lean ====
section
/-! SUPPORT. What the decided parameters of 00_scope.md R6 make of the operations that read them: little-endian
assembly, a TLB that is present, and pages of 4096 bytes. -/

namespace Sys2Proof

@[simp] theorem Config.bigEndian_eq : Config.bigEndian = false := rfl
@[simp] theorem Config.tlbPresent_eq : Config.tlbPresent = true := rfl
theorem Config.pageBytes_eq : Config.pageBytes = 4096 := rfl

@[simp] theorem inByteOrder_eq (l : List Byte) : inByteOrder l = l := rfl
@[simp] theorem halfOfBytes_eq (b0 b1 : Byte) : halfOfBytes b0 b1 = b1 ++ b0 := rfl
@[simp] theorem wordOfBytes_eq (b0 b1 b2 b3 : Byte) : wordOfBytes b0 b1 b2 b3 = b3 ++ b2 ++ b1 ++ b0 := rfl

/-- The four bytes of a word, the least significant first. -/
theorem bytesOfWord_eq (w : Word) :
    bytesOfWord w = [w.extractLsb' 0 8, w.extractLsb' 8 8, w.extractLsb' 16 8, w.extractLsb' 24 8] := rfl

namespace Machine

@[simp] theorem withTlb_eq (k : Result State) : withTlb k = k := rfl

theorem vpnOf_eq (va : Word) : vpnOf va = va.extractLsb' 12 20 := rfl

/-- Translate(va, kind) on this part, which has a TLB (20_memory.md R78, R79, R80). -/
theorem translateAddress_eq (s : State) (va : Word) (kind : AccessKind) :
    translateAddress s va kind =
      if srKuc s.cp0.sr && va.msb then .trap (addressError kind va)
      else if va.extractLsb' 29 3 == 0b100#3 then .done { pa := 0#3 ++ va.extractLsb' 0 29, cacheable := true }
      else if va.extractLsb' 29 3 == 0b101#3 then .done { pa := 0#3 ++ va.extractLsb' 0 29, cacheable := false }
      else translateMapped s.tlb s.cp0.entryHi va kind := rfl

end Machine

end Sys2Proof
end

