-- ==== Sys2Proof/Laws/Memory.lean ====
section
/-! SUPPORT. Physical memory: a read after a write, the canonical form, and the set W (20_memory.md R64, R73). -/

namespace Sys2Proof.Machine

/-! ## One byte -/

@[simp] theorem Memory.read_nil (a : Nat) : Memory.read [] a = unlistedByte := rfl

theorem Memory.read_erase (m : Memory) (a b : Nat) :
    Memory.read (Memory.erase m a) b = if b = a then unlistedByte else Memory.read m b := by
  induction m with
  | nil => simp [Memory.erase]
  | cons p m ih =>
    obtain ⟨k, x⟩ := p
    by_cases hk : k = a
    · by_cases hb : b = a
      · subst hb; simpa [Memory.erase, hk] using ih
      · simp [Memory.erase, Memory.read, hk, hb, ih, Ne.symm hb]
    · by_cases hb : b = a
      · subst hb; simp [Memory.erase, Memory.read, hk, ih]
      · simp [Memory.erase, Memory.read, hk, hb, ih]

theorem Memory.read_insert (m : Memory) (a b : Nat) (v : Byte) (h : ∀ p ∈ m, p.1 ≠ a) :
    Memory.read (Memory.insert m a v) b = if b = a then v else Memory.read m b := by
  induction m with
  | nil =>
    by_cases hb : b = a
    · simp [Memory.insert, Memory.read, hb]
    · simp [Memory.insert, Memory.read, hb, Ne.symm hb]
  | cons p m ih =>
    obtain ⟨k, x⟩ := p
    have hk : k ≠ a := h (k, x) (by simp)
    have ih := ih fun p hp => h p (by simp [hp])
    by_cases hlt : a < k
    · by_cases hb : b = a
      · simp [Memory.insert, hlt, Memory.read, hb]
      · simp [Memory.insert, hlt, Memory.read, hb, Ne.symm hb]
    · by_cases hb : b = a
      · subst hb; simp [Memory.insert, hlt, Memory.read, hk, ih]
      · simp [Memory.insert, hlt, Memory.read, ih, hb]

theorem Memory.erase_fst_ne (m : Memory) (a : Nat) : ∀ p ∈ Memory.erase m a, p.1 ≠ a := by
  induction m with
  | nil => simp [Memory.erase]
  | cons p m ih =>
    obtain ⟨k, x⟩ := p
    by_cases hk : k = a
    · simpa [Memory.erase, hk] using ih
    · simpa [Memory.erase, hk] using ih

/-- A read after a write of one byte, for any list. -/
theorem Memory.read_write (m : Memory) (a b : Nat) (v : Byte) :
    Memory.read (Memory.write m a v) b = if b = a then v else Memory.read m b := by
  unfold Memory.write
  by_cases hv : v = unlistedByte
  · simp [hv, Memory.read_erase]
  · rw [if_neg hv, Memory.read_insert _ _ _ _ (Memory.erase_fst_ne m a), Memory.read_erase]
    by_cases hb : b = a <;> simp [hb]

/-! ## Several bytes -/

@[simp] theorem Memory.writeBytes_nil (m : Memory) (pa : Word) : Memory.writeBytes m pa [] = m := rfl

@[simp] theorem Memory.writeBytes_cons (m : Memory) (pa : Word) (b : Byte) (bs : List Byte) :
    Memory.writeBytes m pa (b :: bs) = Memory.writeBytes (Memory.write m pa.toNat b) (pa + 1#32) bs := rfl

theorem lowBytes_length (v : Word) (n : Nat) : (lowBytes v n).length = n := by
  induction n generalizing v with
  | zero => rfl
  | succ n ih => simp [lowBytes, ih]

/-- A read after a write of bytes that stay below the top of the physical space: byte k of the list at pa + k,
every other byte unchanged. -/
theorem Memory.read_writeBytes (m : Memory) (pa : Word) (bs : List Byte) (a : Nat)
    (h : pa.toNat + bs.length ≤ 2 ^ 32) :
    Memory.read (Memory.writeBytes m pa bs) a =
      if pa.toNat ≤ a then (bs[a - pa.toNat]?).getD (Memory.read m a) else Memory.read m a := by
  induction bs generalizing m pa with
  | nil => simp
  | cons b bs ih =>
    simp only [List.length_cons] at h
    rw [Memory.writeBytes_cons]
    cases bs with
    | nil =>
      rw [Memory.writeBytes_nil, Memory.read_write]
      rcases Nat.lt_trichotomy a pa.toNat with h1 | h1 | h1
      · simp [Nat.not_le.mpr h1, Nat.ne_of_lt h1]
      · simp [h1]
      · have : a - pa.toNat = (a - pa.toNat - 1) + 1 := by omega
        rw [if_neg (by omega), if_pos (by omega), this]
        simp
    | cons c cs =>
      have e : (pa + 1#32).toNat = pa.toNat + 1 := by
        simp only [List.length_cons] at h
        simp only [BitVec.toNat_add, BitVec.toNat_ofNat]
        omega
      rw [ih _ _ (by omega), e, Memory.read_write]
      rcases Nat.lt_trichotomy a pa.toNat with h1 | h1 | h1
      · rw [if_neg (by omega), if_neg (by omega), if_neg (by omega)]
      · rw [if_neg (by omega), if_pos h1, if_pos (by omega), h1]
        simp
      · have : a - pa.toNat = (a - (pa.toNat + 1)) + 1 := by omega
        rw [if_pos (by omega), if_neg (by omega), if_pos (by omega), this]
        simp

/-! ## The canonical form -/

theorem Memory.wfFrom_mono (m : Memory) (lo lo' : Nat) (h : lo' ≤ lo) (hm : Memory.wfFrom lo m = true) :
    Memory.wfFrom lo' m = true := by
  cases m with
  | nil => rfl
  | cons p m =>
    obtain ⟨k, x⟩ := p
    simp only [Memory.wfFrom, Bool.and_eq_true, decide_eq_true_eq] at hm ⊢
    exact ⟨⟨⟨by omega, hm.1.1.2⟩, hm.1.2⟩, hm.2⟩

theorem Memory.erase_wfFrom (m : Memory) (lo a : Nat) (hm : Memory.wfFrom lo m = true) :
    Memory.wfFrom lo (Memory.erase m a) = true := by
  induction m generalizing lo with
  | nil => rfl
  | cons p m ih =>
    obtain ⟨k, x⟩ := p
    simp only [Memory.wfFrom, Bool.and_eq_true, decide_eq_true_eq] at hm
    by_cases hk : k = a
    · simp only [Memory.erase, hk, if_true]
      exact ih lo (Memory.wfFrom_mono m _ _ (by omega) hm.2)
    · simp only [Memory.erase, hk, if_false, Memory.wfFrom, Bool.and_eq_true, decide_eq_true_eq]
      exact ⟨hm.1, ih _ hm.2⟩

theorem Memory.insert_wfFrom (m : Memory) (lo a : Nat) (v : Byte) (hm : Memory.wfFrom lo m = true)
    (ha : lo ≤ a) (hb : a < 2 ^ 32) (hv : v ≠ unlistedByte) (hne : ∀ p ∈ m, p.1 ≠ a) :
    Memory.wfFrom lo (Memory.insert m a v) = true := by
  induction m generalizing lo with
  | nil =>
    simp only [Memory.insert, Memory.wfFrom, Bool.and_eq_true, decide_eq_true_eq, bne_iff_ne]
    exact ⟨⟨⟨ha, hb⟩, hv⟩, trivial⟩
  | cons p m ih =>
    obtain ⟨k, x⟩ := p
    have hk : k ≠ a := hne (k, x) (by simp)
    simp only [Memory.wfFrom, Bool.and_eq_true, decide_eq_true_eq, bne_iff_ne] at hm
    by_cases hlt : a < k
    · simp only [Memory.insert, hlt, if_true, Memory.wfFrom, Bool.and_eq_true, decide_eq_true_eq, bne_iff_ne]
      exact ⟨⟨⟨ha, hb⟩, hv⟩, ⟨⟨by omega, hm.1.1.2⟩, hm.1.2⟩, hm.2⟩
    · simp only [Memory.insert, hlt, if_false, Memory.wfFrom, Bool.and_eq_true, decide_eq_true_eq, bne_iff_ne]
      exact ⟨hm.1, ih _ hm.2 (by omega) fun p hp => hne p (by simp [hp])⟩

/-- A write of one byte keeps the canonical form. -/
theorem Memory.write_wf (m : Memory) (a : Nat) (v : Byte) (hm : Memory.wf m = true) (ha : a < 2 ^ 32) :
    Memory.wf (Memory.write m a v) = true := by
  unfold Memory.write
  by_cases hv : v = unlistedByte
  · rw [if_pos hv]
    exact Memory.erase_wfFrom m 0 a hm
  · rw [if_neg hv]
    exact Memory.insert_wfFrom _ 0 a v (Memory.erase_wfFrom m 0 a hm) (Nat.zero_le a) ha hv (Memory.erase_fst_ne m a)

/-- A write of bytes keeps the canonical form. -/
theorem Memory.writeBytes_wf (m : Memory) (pa : Word) (bs : List Byte) (hm : Memory.wf m = true) :
    Memory.wf (Memory.writeBytes m pa bs) = true := by
  induction bs generalizing m pa with
  | nil => simpa using hm
  | cons b bs ih => exact ih _ _ (Memory.write_wf m pa.toNat b hm pa.isLt)

/-- The memory of the reset state is in the canonical form. -/
theorem reset_memory_wf : Memory.wf State.reset.mem = true := rfl

/-! ## The set W -/

theorem mem_recordWritten (l : List Nat) (a b : Nat) : b ∈ recordWritten l a ↔ b = a ∨ b ∈ l := by
  induction l with
  | nil => simp [recordWritten]
  | cons k l ih =>
    by_cases h1 : a < k
    · simp [recordWritten, h1]
    · by_cases h2 : a = k
      · simp [recordWritten, h2]
      · simp [recordWritten, h1, h2, ih, or_left_comm]

/-- Recording a word keeps W strictly rising. -/
theorem recordWritten_pairwise (l : List Nat) (a : Nat) (h : l.Pairwise (· < ·)) :
    (recordWritten l a).Pairwise (· < ·) := by
  induction l with
  | nil => simp [recordWritten]
  | cons k l ih =>
    obtain ⟨hk, hl⟩ := List.pairwise_cons.mp h
    by_cases h1 : a < k
    · simp only [recordWritten, h1, if_true, List.pairwise_cons]
      refine ⟨fun b hb => ?_, hk, hl⟩
      rcases List.mem_cons.mp hb with rfl | hb
      · exact h1
      · exact h1.trans (hk b hb)
    · by_cases h2 : a = k
      · simp only [recordWritten, h2, Nat.lt_irrefl, if_false, if_true]
        exact h
      · simp only [recordWritten, h1, h2, if_false, List.pairwise_cons]
        refine ⟨fun b hb => ?_, ih hl⟩
        rcases (mem_recordWritten l a b).mp hb with rfl | hb
        · omega
        · exact hk b hb

end Sys2Proof.Machine
end

