-- ==== Sys2Proof/Laws/State.lean ====
section
/-! SUPPORT. One lemma for each field of State under each update of it: no later proof unfolds an update. -/

namespace Sys2Proof.Machine

/-! ## setX -/

@[simp] theorem State.setX_hi (s : State) (r : Reg) (v : Word) : (s.setX r v).hi = s.hi := by unfold State.setX; split <;> rfl
@[simp] theorem State.setX_lo (s : State) (r : Reg) (v : Word) : (s.setX r v).lo = s.lo := by unfold State.setX; split <;> rfl
@[simp] theorem State.setX_pc (s : State) (r : Reg) (v : Word) : (s.setX r v).pc = s.pc := by unfold State.setX; split <;> rfl
@[simp] theorem State.setX_npc (s : State) (r : Reg) (v : Word) : (s.setX r v).npc = s.npc := by unfold State.setX; split <;> rfl
@[simp] theorem State.setX_slot (s : State) (r : Reg) (v : Word) : (s.setX r v).slot = s.slot := by unfold State.setX; split <;> rfl
@[simp] theorem State.setX_ld (s : State) (r : Reg) (v : Word) : (s.setX r v).ld = s.ld := by unfold State.setX; split <;> rfl
@[simp] theorem State.setX_hiAge (s : State) (r : Reg) (v : Word) : (s.setX r v).hiAge = s.hiAge := by unfold State.setX; split <;> rfl
@[simp] theorem State.setX_loAge (s : State) (r : Reg) (v : Word) : (s.setX r v).loAge = s.loAge := by unfold State.setX; split <;> rfl
@[simp] theorem State.setX_cp0 (s : State) (r : Reg) (v : Word) : (s.setX r v).cp0 = s.cp0 := by unfold State.setX; split <;> rfl
@[simp] theorem State.setX_tlb (s : State) (r : Reg) (v : Word) : (s.setX r v).tlb = s.tlb := by unfold State.setX; split <;> rfl
@[simp] theorem State.setX_c2 (s : State) (r : Reg) (v : Word) : (s.setX r v).c2 = s.c2 := by unfold State.setX; split <;> rfl
@[simp] theorem State.setX_mem (s : State) (r : Reg) (v : Word) : (s.setX r v).mem = s.mem := by unfold State.setX; split <;> rfl
@[simp] theorem State.setX_written (s : State) (r : Reg) (v : Word) : (s.setX r v).written = s.written := by unfold State.setX; split <;> rfl
@[simp] theorem State.setX_intLines (s : State) (r : Reg) (v : Word) : (s.setX r v).intLines = s.intLines := by unfold State.setX; split <;> rfl
@[simp] theorem State.setX_platform (s : State) (r : Reg) (v : Word) : (s.setX r v).platform = s.platform := by unfold State.setX; split <;> rfl
@[simp] theorem State.setX_tick (s : State) (r : Reg) (v : Word) : (s.setX r v).tick = s.tick := by unfold State.setX; split <;> rfl

/-! ## retire -/

@[simp] theorem State.retire_regs (s : State) : (s.retire).regs = s.regs := rfl
@[simp] theorem State.retire_hi (s : State) : (s.retire).hi = s.hi := rfl
@[simp] theorem State.retire_lo (s : State) : (s.retire).lo = s.lo := rfl
@[simp] theorem State.retire_pc (s : State) : (s.retire).pc = s.npc := rfl
@[simp] theorem State.retire_npc (s : State) : (s.retire).npc = s.npc + 4#32 := rfl
@[simp] theorem State.retire_slot (s : State) : (s.retire).slot = false := rfl
@[simp] theorem State.retire_ld (s : State) : (s.retire).ld = none := rfl
@[simp] theorem State.retire_hiAge (s : State) : (s.retire).hiAge = s.hiAge - 1 := rfl
@[simp] theorem State.retire_loAge (s : State) : (s.retire).loAge = s.loAge - 1 := rfl
@[simp] theorem State.retire_cp0 (s : State) : (s.retire).cp0 = s.cp0 := rfl
@[simp] theorem State.retire_tlb (s : State) : (s.retire).tlb = s.tlb := rfl
@[simp] theorem State.retire_c2 (s : State) : (s.retire).c2 = s.c2 := rfl
@[simp] theorem State.retire_mem (s : State) : (s.retire).mem = s.mem := rfl
@[simp] theorem State.retire_written (s : State) : (s.retire).written = s.written := rfl
@[simp] theorem State.retire_intLines (s : State) : (s.retire).intLines = s.intLines := rfl
@[simp] theorem State.retire_platform (s : State) : (s.retire).platform = s.platform := rfl
@[simp] theorem State.retire_tick (s : State) : (s.retire).tick = s.tick := rfl
@[simp] theorem State.retire_x (s : State) (q : Reg) : (s.retire).x q = s.x q := rfl

/-! ## retireJump -/

@[simp] theorem State.retireJump_regs (s : State) (taken : Bool) (target : Word) : (s.retireJump taken target).regs = s.regs := rfl
@[simp] theorem State.retireJump_hi (s : State) (taken : Bool) (target : Word) : (s.retireJump taken target).hi = s.hi := rfl
@[simp] theorem State.retireJump_lo (s : State) (taken : Bool) (target : Word) : (s.retireJump taken target).lo = s.lo := rfl
@[simp] theorem State.retireJump_pc (s : State) (taken : Bool) (target : Word) : (s.retireJump taken target).pc = s.npc := rfl
@[simp] theorem State.retireJump_npc (s : State) (taken : Bool) (target : Word) : (s.retireJump taken target).npc = (if taken then target else s.npc + 4#32) := rfl
@[simp] theorem State.retireJump_slot (s : State) (taken : Bool) (target : Word) : (s.retireJump taken target).slot = true := rfl
@[simp] theorem State.retireJump_ld (s : State) (taken : Bool) (target : Word) : (s.retireJump taken target).ld = none := rfl
@[simp] theorem State.retireJump_hiAge (s : State) (taken : Bool) (target : Word) : (s.retireJump taken target).hiAge = s.hiAge - 1 := rfl
@[simp] theorem State.retireJump_loAge (s : State) (taken : Bool) (target : Word) : (s.retireJump taken target).loAge = s.loAge - 1 := rfl
@[simp] theorem State.retireJump_cp0 (s : State) (taken : Bool) (target : Word) : (s.retireJump taken target).cp0 = s.cp0 := rfl
@[simp] theorem State.retireJump_tlb (s : State) (taken : Bool) (target : Word) : (s.retireJump taken target).tlb = s.tlb := rfl
@[simp] theorem State.retireJump_c2 (s : State) (taken : Bool) (target : Word) : (s.retireJump taken target).c2 = s.c2 := rfl
@[simp] theorem State.retireJump_mem (s : State) (taken : Bool) (target : Word) : (s.retireJump taken target).mem = s.mem := rfl
@[simp] theorem State.retireJump_written (s : State) (taken : Bool) (target : Word) : (s.retireJump taken target).written = s.written := rfl
@[simp] theorem State.retireJump_intLines (s : State) (taken : Bool) (target : Word) : (s.retireJump taken target).intLines = s.intLines := rfl
@[simp] theorem State.retireJump_platform (s : State) (taken : Bool) (target : Word) : (s.retireJump taken target).platform = s.platform := rfl
@[simp] theorem State.retireJump_tick (s : State) (taken : Bool) (target : Word) : (s.retireJump taken target).tick = s.tick := rfl
@[simp] theorem State.retireJump_x (s : State) (taken : Bool) (target : Word) (q : Reg) : (s.retireJump taken target).x q = s.x q := rfl

/-! ## takeException -/

@[simp] theorem State.takeException_regs (s : State) (e : Exc) : (s.takeException e).regs = s.regs := rfl
@[simp] theorem State.takeException_hi (s : State) (e : Exc) : (s.takeException e).hi = s.hi := rfl
@[simp] theorem State.takeException_lo (s : State) (e : Exc) : (s.takeException e).lo = s.lo := rfl
@[simp] theorem State.takeException_pc (s : State) (e : Exc) : (s.takeException e).pc = vector s.cp0.sr e := rfl
@[simp] theorem State.takeException_npc (s : State) (e : Exc) : (s.takeException e).npc = vector s.cp0.sr e + 4#32 := rfl
@[simp] theorem State.takeException_slot (s : State) (e : Exc) : (s.takeException e).slot = false := rfl
@[simp] theorem State.takeException_ld (s : State) (e : Exc) : (s.takeException e).ld = none := rfl
@[simp] theorem State.takeException_hiAge (s : State) (e : Exc) : (s.takeException e).hiAge = s.hiAge := rfl
@[simp] theorem State.takeException_loAge (s : State) (e : Exc) : (s.takeException e).loAge = s.loAge := rfl
@[simp] theorem State.takeException_cp0 (s : State) (e : Exc) : (s.takeException e).cp0 = s.cp0.enter e s.pc s.slot := rfl
@[simp] theorem State.takeException_tlb (s : State) (e : Exc) : (s.takeException e).tlb = s.tlb := rfl
@[simp] theorem State.takeException_c2 (s : State) (e : Exc) : (s.takeException e).c2 = s.c2 := rfl
@[simp] theorem State.takeException_mem (s : State) (e : Exc) : (s.takeException e).mem = s.mem := rfl
@[simp] theorem State.takeException_written (s : State) (e : Exc) : (s.takeException e).written = s.written := rfl
@[simp] theorem State.takeException_intLines (s : State) (e : Exc) : (s.takeException e).intLines = s.intLines := rfl
@[simp] theorem State.takeException_platform (s : State) (e : Exc) : (s.takeException e).platform = s.platform := rfl
@[simp] theorem State.takeException_tick (s : State) (e : Exc) : (s.takeException e).tick = s.tick := rfl
@[simp] theorem State.takeException_x (s : State) (e : Exc) (q : Reg) : (s.takeException e).x q = s.x q := rfl

/-! ## popStatus -/

@[simp] theorem State.popStatus_regs (s : State) : (s.popStatus).regs = s.regs := rfl
@[simp] theorem State.popStatus_hi (s : State) : (s.popStatus).hi = s.hi := rfl
@[simp] theorem State.popStatus_lo (s : State) : (s.popStatus).lo = s.lo := rfl
@[simp] theorem State.popStatus_pc (s : State) : (s.popStatus).pc = s.pc := rfl
@[simp] theorem State.popStatus_npc (s : State) : (s.popStatus).npc = s.npc := rfl
@[simp] theorem State.popStatus_slot (s : State) : (s.popStatus).slot = s.slot := rfl
@[simp] theorem State.popStatus_ld (s : State) : (s.popStatus).ld = s.ld := rfl
@[simp] theorem State.popStatus_hiAge (s : State) : (s.popStatus).hiAge = s.hiAge := rfl
@[simp] theorem State.popStatus_loAge (s : State) : (s.popStatus).loAge = s.loAge := rfl
@[simp] theorem State.popStatus_cp0 (s : State) : (s.popStatus).cp0 = { s.cp0 with sr := srPop s.cp0.sr } := rfl
@[simp] theorem State.popStatus_tlb (s : State) : (s.popStatus).tlb = s.tlb := rfl
@[simp] theorem State.popStatus_c2 (s : State) : (s.popStatus).c2 = s.c2 := rfl
@[simp] theorem State.popStatus_mem (s : State) : (s.popStatus).mem = s.mem := rfl
@[simp] theorem State.popStatus_written (s : State) : (s.popStatus).written = s.written := rfl
@[simp] theorem State.popStatus_intLines (s : State) : (s.popStatus).intLines = s.intLines := rfl
@[simp] theorem State.popStatus_platform (s : State) : (s.popStatus).platform = s.platform := rfl
@[simp] theorem State.popStatus_tick (s : State) : (s.popStatus).tick = s.tick := rfl
@[simp] theorem State.popStatus_x (s : State) (q : Reg) : (s.popStatus).x q = s.x q := rfl

/-! ## writeTlb -/

@[simp] theorem State.writeTlb_regs (s : State) (i : BitVec 6) : (s.writeTlb i).regs = s.regs := rfl
@[simp] theorem State.writeTlb_hi (s : State) (i : BitVec 6) : (s.writeTlb i).hi = s.hi := rfl
@[simp] theorem State.writeTlb_lo (s : State) (i : BitVec 6) : (s.writeTlb i).lo = s.lo := rfl
@[simp] theorem State.writeTlb_pc (s : State) (i : BitVec 6) : (s.writeTlb i).pc = s.pc := rfl
@[simp] theorem State.writeTlb_npc (s : State) (i : BitVec 6) : (s.writeTlb i).npc = s.npc := rfl
@[simp] theorem State.writeTlb_slot (s : State) (i : BitVec 6) : (s.writeTlb i).slot = s.slot := rfl
@[simp] theorem State.writeTlb_ld (s : State) (i : BitVec 6) : (s.writeTlb i).ld = s.ld := rfl
@[simp] theorem State.writeTlb_hiAge (s : State) (i : BitVec 6) : (s.writeTlb i).hiAge = s.hiAge := rfl
@[simp] theorem State.writeTlb_loAge (s : State) (i : BitVec 6) : (s.writeTlb i).loAge = s.loAge := rfl
@[simp] theorem State.writeTlb_cp0 (s : State) (i : BitVec 6) : (s.writeTlb i).cp0 = s.cp0 := rfl
@[simp] theorem State.writeTlb_tlb (s : State) (i : BitVec 6) : (s.writeTlb i).tlb = s.tlb.set (entryNumber i).val { hi := s.cp0.entryHi, lo := s.cp0.entryLo } (entryNumber i).isLt := rfl
@[simp] theorem State.writeTlb_c2 (s : State) (i : BitVec 6) : (s.writeTlb i).c2 = s.c2 := rfl
@[simp] theorem State.writeTlb_mem (s : State) (i : BitVec 6) : (s.writeTlb i).mem = s.mem := rfl
@[simp] theorem State.writeTlb_written (s : State) (i : BitVec 6) : (s.writeTlb i).written = s.written := rfl
@[simp] theorem State.writeTlb_intLines (s : State) (i : BitVec 6) : (s.writeTlb i).intLines = s.intLines := rfl
@[simp] theorem State.writeTlb_platform (s : State) (i : BitVec 6) : (s.writeTlb i).platform = s.platform := rfl
@[simp] theorem State.writeTlb_tick (s : State) (i : BitVec 6) : (s.writeTlb i).tick = s.tick := rfl
@[simp] theorem State.writeTlb_x (s : State) (i : BitVec 6) (q : Reg) : (s.writeTlb i).x q = s.x q := rfl

/-! ## readTlb -/

@[simp] theorem State.readTlb_regs (s : State) (i : BitVec 6) : (s.readTlb i).regs = s.regs := rfl
@[simp] theorem State.readTlb_hi (s : State) (i : BitVec 6) : (s.readTlb i).hi = s.hi := rfl
@[simp] theorem State.readTlb_lo (s : State) (i : BitVec 6) : (s.readTlb i).lo = s.lo := rfl
@[simp] theorem State.readTlb_pc (s : State) (i : BitVec 6) : (s.readTlb i).pc = s.pc := rfl
@[simp] theorem State.readTlb_npc (s : State) (i : BitVec 6) : (s.readTlb i).npc = s.npc := rfl
@[simp] theorem State.readTlb_slot (s : State) (i : BitVec 6) : (s.readTlb i).slot = s.slot := rfl
@[simp] theorem State.readTlb_ld (s : State) (i : BitVec 6) : (s.readTlb i).ld = s.ld := rfl
@[simp] theorem State.readTlb_hiAge (s : State) (i : BitVec 6) : (s.readTlb i).hiAge = s.hiAge := rfl
@[simp] theorem State.readTlb_loAge (s : State) (i : BitVec 6) : (s.readTlb i).loAge = s.loAge := rfl
@[simp] theorem State.readTlb_cp0 (s : State) (i : BitVec 6) : (s.readTlb i).cp0 = { s.cp0 with entryHi := (s.tlb.get (entryNumber i)).hi, entryLo := (s.tlb.get (entryNumber i)).lo } := rfl
@[simp] theorem State.readTlb_tlb (s : State) (i : BitVec 6) : (s.readTlb i).tlb = s.tlb := rfl
@[simp] theorem State.readTlb_c2 (s : State) (i : BitVec 6) : (s.readTlb i).c2 = s.c2 := rfl
@[simp] theorem State.readTlb_mem (s : State) (i : BitVec 6) : (s.readTlb i).mem = s.mem := rfl
@[simp] theorem State.readTlb_written (s : State) (i : BitVec 6) : (s.readTlb i).written = s.written := rfl
@[simp] theorem State.readTlb_intLines (s : State) (i : BitVec 6) : (s.readTlb i).intLines = s.intLines := rfl
@[simp] theorem State.readTlb_platform (s : State) (i : BitVec 6) : (s.readTlb i).platform = s.platform := rfl
@[simp] theorem State.readTlb_tick (s : State) (i : BitVec 6) : (s.readTlb i).tick = s.tick := rfl
@[simp] theorem State.readTlb_x (s : State) (i : BitVec 6) (q : Reg) : (s.readTlb i).x q = s.x q := rfl

/-! ## beginStep -/

@[simp] theorem State.beginStep_regs (s : State) : (s.beginStep).regs = s.regs := rfl
@[simp] theorem State.beginStep_hi (s : State) : (s.beginStep).hi = s.hi := rfl
@[simp] theorem State.beginStep_lo (s : State) : (s.beginStep).lo = s.lo := rfl
@[simp] theorem State.beginStep_pc (s : State) : (s.beginStep).pc = s.pc := rfl
@[simp] theorem State.beginStep_npc (s : State) : (s.beginStep).npc = s.npc := rfl
@[simp] theorem State.beginStep_slot (s : State) : (s.beginStep).slot = s.slot := rfl
@[simp] theorem State.beginStep_ld (s : State) : (s.beginStep).ld = s.ld := rfl
@[simp] theorem State.beginStep_hiAge (s : State) : (s.beginStep).hiAge = s.hiAge := rfl
@[simp] theorem State.beginStep_loAge (s : State) : (s.beginStep).loAge = s.loAge := rfl
@[simp] theorem State.beginStep_cp0 (s : State) : (s.beginStep).cp0 = { s.cp0 with cause := causeWithLines s.cp0.cause (linesNow s.intLines), random := randomWord (randomAt s.tick) } := rfl
@[simp] theorem State.beginStep_tlb (s : State) : (s.beginStep).tlb = s.tlb := rfl
@[simp] theorem State.beginStep_c2 (s : State) : (s.beginStep).c2 = s.c2 := rfl
@[simp] theorem State.beginStep_mem (s : State) : (s.beginStep).mem = s.mem := rfl
@[simp] theorem State.beginStep_written (s : State) : (s.beginStep).written = s.written := rfl
@[simp] theorem State.beginStep_intLines (s : State) : (s.beginStep).intLines = s.intLines.tail := rfl
@[simp] theorem State.beginStep_platform (s : State) : (s.beginStep).platform = s.platform := rfl
@[simp] theorem State.beginStep_tick (s : State) : (s.beginStep).tick = s.tick + 1 := rfl
@[simp] theorem State.beginStep_x (s : State) (q : Reg) : (s.beginStep).x q = s.x q := rfl

/-! ## placeWord -/

@[simp] theorem State.placeWord_regs (s : State) (pa w : Word) : (s.placeWord pa w).regs = s.regs := rfl
@[simp] theorem State.placeWord_hi (s : State) (pa w : Word) : (s.placeWord pa w).hi = s.hi := rfl
@[simp] theorem State.placeWord_lo (s : State) (pa w : Word) : (s.placeWord pa w).lo = s.lo := rfl
@[simp] theorem State.placeWord_pc (s : State) (pa w : Word) : (s.placeWord pa w).pc = s.pc := rfl
@[simp] theorem State.placeWord_npc (s : State) (pa w : Word) : (s.placeWord pa w).npc = s.npc := rfl
@[simp] theorem State.placeWord_slot (s : State) (pa w : Word) : (s.placeWord pa w).slot = s.slot := rfl
@[simp] theorem State.placeWord_ld (s : State) (pa w : Word) : (s.placeWord pa w).ld = s.ld := rfl
@[simp] theorem State.placeWord_hiAge (s : State) (pa w : Word) : (s.placeWord pa w).hiAge = s.hiAge := rfl
@[simp] theorem State.placeWord_loAge (s : State) (pa w : Word) : (s.placeWord pa w).loAge = s.loAge := rfl
@[simp] theorem State.placeWord_cp0 (s : State) (pa w : Word) : (s.placeWord pa w).cp0 = s.cp0 := rfl
@[simp] theorem State.placeWord_tlb (s : State) (pa w : Word) : (s.placeWord pa w).tlb = s.tlb := rfl
@[simp] theorem State.placeWord_c2 (s : State) (pa w : Word) : (s.placeWord pa w).c2 = s.c2 := rfl
@[simp] theorem State.placeWord_mem (s : State) (pa w : Word) : (s.placeWord pa w).mem = Memory.writeBytes s.mem pa (bytesOfWord w) := rfl
@[simp] theorem State.placeWord_written (s : State) (pa w : Word) : (s.placeWord pa w).written = s.written.filter fun a => a != (wordAddress pa).toNat := rfl
@[simp] theorem State.placeWord_intLines (s : State) (pa w : Word) : (s.placeWord pa w).intLines = s.intLines := rfl
@[simp] theorem State.placeWord_platform (s : State) (pa w : Word) : (s.placeWord pa w).platform = s.platform := rfl
@[simp] theorem State.placeWord_tick (s : State) (pa w : Word) : (s.placeWord pa w).tick = s.tick := rfl
@[simp] theorem State.placeWord_x (s : State) (pa w : Word) (q : Reg) : (s.placeWord pa w).x q = s.x q := rfl

/-! ## retireLoad -/

@[simp] theorem State.retireLoad_hi (s : State) (rt : Reg) (v : Word) : (s.retireLoad rt v).hi = s.hi := by simp [State.retireLoad]
@[simp] theorem State.retireLoad_lo (s : State) (rt : Reg) (v : Word) : (s.retireLoad rt v).lo = s.lo := by simp [State.retireLoad]
@[simp] theorem State.retireLoad_pc (s : State) (rt : Reg) (v : Word) : (s.retireLoad rt v).pc = s.npc := by simp [State.retireLoad]
@[simp] theorem State.retireLoad_npc (s : State) (rt : Reg) (v : Word) : (s.retireLoad rt v).npc = s.npc + 4#32 := by simp [State.retireLoad]
@[simp] theorem State.retireLoad_slot (s : State) (rt : Reg) (v : Word) : (s.retireLoad rt v).slot = false := by simp [State.retireLoad]
@[simp] theorem State.retireLoad_ld (s : State) (rt : Reg) (v : Word) : (s.retireLoad rt v).ld = if rt = 0#5 then none else some rt := by simp [State.retireLoad]
@[simp] theorem State.retireLoad_hiAge (s : State) (rt : Reg) (v : Word) : (s.retireLoad rt v).hiAge = s.hiAge - 1 := by simp [State.retireLoad]
@[simp] theorem State.retireLoad_loAge (s : State) (rt : Reg) (v : Word) : (s.retireLoad rt v).loAge = s.loAge - 1 := by simp [State.retireLoad]
@[simp] theorem State.retireLoad_cp0 (s : State) (rt : Reg) (v : Word) : (s.retireLoad rt v).cp0 = s.cp0 := by simp [State.retireLoad]
@[simp] theorem State.retireLoad_tlb (s : State) (rt : Reg) (v : Word) : (s.retireLoad rt v).tlb = s.tlb := by simp [State.retireLoad]
@[simp] theorem State.retireLoad_c2 (s : State) (rt : Reg) (v : Word) : (s.retireLoad rt v).c2 = s.c2 := by simp [State.retireLoad]
@[simp] theorem State.retireLoad_mem (s : State) (rt : Reg) (v : Word) : (s.retireLoad rt v).mem = s.mem := by simp [State.retireLoad]
@[simp] theorem State.retireLoad_written (s : State) (rt : Reg) (v : Word) : (s.retireLoad rt v).written = s.written := by simp [State.retireLoad]
@[simp] theorem State.retireLoad_intLines (s : State) (rt : Reg) (v : Word) : (s.retireLoad rt v).intLines = s.intLines := by simp [State.retireLoad]
@[simp] theorem State.retireLoad_platform (s : State) (rt : Reg) (v : Word) : (s.retireLoad rt v).platform = s.platform := by simp [State.retireLoad]
@[simp] theorem State.retireLoad_tick (s : State) (rt : Reg) (v : Word) : (s.retireLoad rt v).tick = s.tick := by simp [State.retireLoad]
@[simp] theorem State.retireLoad_x (s : State) (rt : Reg) (v : Word) (q : Reg) : (s.retireLoad rt v).x q = (s.setX rt v).x q := rfl

end Sys2Proof.Machine
end

