-- ==== Sys2Proof/Laws/Registers.lean ====
section
/-! SUPPORT. Reading a general register after a write, and R0 (10_state.md R21, R23). -/

namespace Sys2Proof.Machine

@[simp] theorem State.x_zero (s : State) : s.x 0#5 = 0#32 := by simp [State.x]

/-- Reading register q after v was written to r: R0 reads 0, r reads v, every other register is unchanged. -/
theorem State.x_setX (s : State) (r q : Reg) (v : Word) :
    (s.setX r v).x q = if q = 0#5 then 0#32 else if q = r then v else s.x q := by
  by_cases hq : q = 0#5
  · simp [State.x, hq]
  · by_cases hr : r = 0#5
    · have : q ≠ r := fun h => hq (h.trans hr)
      simp [State.setX, hr, State.x, hq]
    · by_cases h : q = r
      · subst h
        simp [State.setX, State.x, hq]
      · have hn : r.toNat ≠ q.toNat := fun e => h (BitVec.eq_of_toNat_eq e.symm)
        simp [State.setX, State.x, hq, hr, h, hn]

theorem State.x_setX_self (s : State) {r : Reg} (v : Word) (h : r ≠ 0#5) : (s.setX r v).x r = v := by
  simp [State.x_setX, h]

theorem State.x_setX_of_ne (s : State) {r q : Reg} (v : Word) (h : q ≠ r) : (s.setX r v).x q = s.x q := by
  by_cases hq : q = 0#5
  · subst hq; simp
  · simp [State.x_setX, h, hq]

end Sys2Proof.Machine
end

