-- ==== Sys2Proof/Laws/Access.lean ====
section
/-! SUPPORT. What the accesses to memory and the checks of step S6 can answer, once for each shared
operation (20_memory.md R72 to R80, 10_state.md R28 S6). -/

namespace Sys2Proof.Machine

/-! ## Access -/

@[simp] theorem Access.andThen_done {α β : Type} (v : α) (k : α → Access β) : (Access.done v).andThen k = k v := rfl
@[simp] theorem Access.andThen_trap {α β : Type} (e : Exc) (k : α → Access β) : (Access.trap e).andThen k = .trap e := rfl
@[simp] theorem Access.andThen_stop {α β : Type} (f : Fault) (k : α → Access β) : (Access.stop f).andThen k = .stop f := rfl
@[simp] theorem Access.finish_done {α : Type} (v : α) (s : State) (k : α → Result State) :
    (Access.done v).finish s k = k v := rfl
@[simp] theorem Access.finish_trap {α : Type} (e : Exc) (s : State) (k : α → Result State) :
    (Access.trap e : Access α).finish s k = .next (s.takeException e) := rfl
@[simp] theorem Access.finish_stop {α : Type} (f : Fault) (s : State) (k : α → Result State) :
    (Access.stop f : Access α).finish s k = .fault f := rfl

/-- An access that is continued and ends in a next state: its value was used, or its exception was taken. -/
theorem Access.finish_next {α : Type} {a : Access α} {s t : State} {k : α → Result State}
    (h : a.finish s k = .next t) : (∃ v, a = .done v ∧ k v = .next t) ∨ (∃ e, a = .trap e ∧ t = s.takeException e) := by
  cases a with
  | done v => exact .inl ⟨v, rfl, h⟩
  | trap e => exact .inr ⟨e, rfl, by simpa using h.symm⟩
  | stop f => simp at h

/-- A continued access is done only where both parts are. -/
theorem Access.andThen_eq_done {α β : Type} {a : Access α} {k : α → Access β} {w : β}
    (h : a.andThen k = .done w) : ∃ v, a = .done v ∧ k v = .done w := by
  cases a with
  | done v => exact ⟨v, rfl, h⟩
  | trap e => simp at h
  | stop f => simp at h

/-! ## The checks of step S6 and of coprocessor instructions -/

theorem reading_free {s : State} {r : Reg} (h : s.ld ≠ some r) (k : Result State) : reading s r k = k := by
  simp [reading, State.delayed, h]

theorem reading_delayed {s : State} {r : Reg} (h : s.ld = some r) (k : Result State) :
    reading s r k = .fault .loadDelay := by
  simp [reading, State.delayed, h]

theorem reading_next {s t : State} {r : Reg} {k : Result State} (h : reading s r k = .next t) :
    s.ld ≠ some r ∧ k = .next t := by
  by_cases hd : s.ld = some r
  · rw [reading_delayed hd] at h; cases h
  · rw [reading_free hd] at h; exact ⟨hd, h⟩

theorem outsideSlot_free {s : State} (h : s.slot = false) (k : Result State) : outsideSlot s k = k := by
  simp [outsideSlot, h]

theorem outsideSlot_inside {s : State} (h : s.slot = true) (k : Result State) :
    outsideSlot s k = .fault .branchInDelaySlot := by
  simp [outsideSlot, h]

theorem outsideSlot_next {s t : State} {k : Result State} (h : outsideSlot s k = .next t) :
    s.slot = false ∧ k = .next t := by
  cases hs : s.slot with
  | true => rw [outsideSlot_inside hs] at h; cases h
  | false => rw [outsideSlot_free hs] at h; exact ⟨rfl, h⟩

theorem hiLoFree_free {s : State} {hi lo : Bool} (h1 : hi = true → s.hiAge = 0) (h2 : lo = true → s.loAge = 0)
    (k : Result State) : hiLoFree s hi lo k = k := by
  cases hi <;> cases lo <;> simp_all [hiLoFree]

theorem hiLoFree_next {s t : State} {hi lo : Bool} {k : Result State} (h : hiLoFree s hi lo k = .next t) :
    k = .next t := by
  unfold hiLoFree at h
  split at h
  · cases h
  · exact h

theorem withCop_usable {s : State} {z : BitVec 2} (h : s.usable z = true) (k : Result State) : withCop s z k = k := by
  simp [withCop, h]

theorem withCop_unusable {s : State} {z : BitVec 2} (h : s.usable z = false) (k : Result State) :
    withCop s z k = .next (s.takeException (.cpu z)) := by
  simp [withCop, h, raise]

theorem withCop_next {s t : State} {z : BitVec 2} {k : Result State} (h : withCop s z k = .next t) :
    (s.usable z = true ∧ k = .next t) ∨ (s.usable z = false ∧ t = s.takeException (.cpu z)) := by
  cases hu : s.usable z with
  | true => rw [withCop_usable hu] at h; exact .inl ⟨rfl, h⟩
  | false => rw [withCop_unusable hu] at h; exact .inr ⟨rfl, by cases h; rfl⟩

/-! ## Alignment -/

theorem checkAligned_ok {kind : AccessKind} {va : Word} {n : Nat} (h : va.toNat % n = 0) :
    checkAligned kind va n = .done () := by simp [checkAligned, h]

theorem checkAligned_bad {kind : AccessKind} {va : Word} {n : Nat} (h : va.toNat % n ≠ 0) :
    checkAligned kind va n = .trap (addressError kind va) := by simp [checkAligned, h]

/-- The byte accesses have no alignment (20_memory.md R66). -/
@[simp] theorem checkAligned_byte (kind : AccessKind) (va : Word) : checkAligned kind va 1 = .done () :=
  checkAligned_ok (Nat.mod_one _)

/-! ## Translation -/

/-- The exceptions that translation of va for a kind of access can raise (20_memory.md R78, R80). -/
def translationTrap (va : Word) (kind : AccessKind) (e : Exc) : Prop :=
  e = addressError kind va ∨ (∃ r, e = tlbMiss kind va r) ∨ (kind = .store ∧ e = .mod va)

/-- All that a lookup through one entry can answer. -/
theorem throughEntry_cases (e : TlbEntry) (va : Word) (kind : AccessKind) :
    (∃ t, throughEntry e va kind = .done t ∧ e.valid = true ∧ (kind = .store → e.dirty = true) ∧
      t.pa = e.pfn ++ va.extractLsb' 0 12 ∧ t.cacheable = !e.nonCacheable) ∨
    (throughEntry e va kind = .trap (tlbMiss kind va false) ∧ e.valid = false) ∨
    (throughEntry e va kind = .trap (.mod va) ∧ e.valid = true ∧ kind = .store ∧ e.dirty = false) := by
  cases hv : e.valid with
  | false => exact .inr (.inl ⟨by simp [throughEntry, hv], rfl⟩)
  | true =>
    cases hd : e.dirty <;> cases kind <;> simp [throughEntry, hv, hd]

/-- All that translation can answer: a physical address, an exception that names va, or the stop of two hits. -/
theorem translate_cases (s : State) (va : Word) (kind : AccessKind) :
    (∃ t, translateAddress s va kind = .done t ∧ (srKuc s.cp0.sr = true → va.msb = false)) ∨
    (∃ e, translateAddress s va kind = .trap e ∧ translationTrap va kind e) ∨
    translateAddress s va kind = .stop .multipleTlbMatch := by
  rw [translateAddress_eq]
  split
  · exact .inr (.inl ⟨_, rfl, .inl rfl⟩)
  · rename_i hp
    have hp : srKuc s.cp0.sr = true → va.msb = false := by
      intro hk; simpa [hk] using hp
    split
    · exact .inl ⟨_, rfl, hp⟩
    split
    · exact .inl ⟨_, rfl, hp⟩
    unfold translateMapped
    split
    · exact .inr (.inl ⟨_, rfl, .inr (.inl ⟨_, rfl⟩)⟩)
    · rename_i i _
      rcases throughEntry_cases (s.tlb.get i) va kind with ⟨t, h, -⟩ | ⟨h, -⟩ | ⟨h, -, hk, -⟩
      · exact .inl ⟨t, h, hp⟩
      · exact .inr (.inl ⟨_, h, .inr (.inl ⟨_, rfl⟩)⟩)
      · exact .inr (.inl ⟨_, h, .inr (.inr ⟨hk, rfl⟩)⟩)
    · exact .inr (.inr rfl)

/-! ## Loads and stores -/

theorem memRead_ready {s : State} {va pa : Word} {n : Nat} (h : LoadReady s va n pa) :
    memRead s va n = .done (Memory.readSize s.mem pa n) := by
  obtain ⟨⟨c, ht⟩, hi, hb, hp⟩ := h
  simp [memRead, ht, hi, hb, hp]

theorem memRead_isolated {s : State} {va : Word} {n : Nat} {t : Translated} (ht : translateAddress s va .load = .done t)
    (hi : srIsc s.cp0.sr = true) :
    memRead s va n = .done (((Config.isolatedLoad s.tick).setWidth (8 * n)).setWidth 32) := by
  simp [memRead, ht, hi]

theorem memWrite_ready {s : State} {va pa v : Word} {n : Nat} (h : StoreReady s va n pa) :
    memWrite s va n v = .done { s with mem := Memory.writeBytes s.mem pa (lowBytes v n),
                                       written := recordWritten s.written (wordAddress pa).toNat } := by
  obtain ⟨⟨c, ht⟩, hi, hb, hp⟩ := h
  simp [memWrite, ht, hi, hb, hp]

theorem memWrite_isolated {s : State} {va v : Word} {n : Nat} {t : Translated} (ht : translateAddress s va .store = .done t)
    (hi : srIsc s.cp0.sr = true) : memWrite s va n v = .done s := by
  simp [memWrite, ht, hi]

/-- A write that is translated can raise no exception but DBE (20_memory.md R73). -/
theorem memWrite_trap {s : State} {va v : Word} {n : Nat} {u : Translated} {e : Exc}
    (ht : translateAddress s va .store = .done u) (h : memWrite s va n v = .trap e) : e = .dbe := by
  simp only [memWrite, ht, Access.andThen_done] at h
  split at h
  · cases h
  split at h
  · cases h; rfl
  split at h <;> cases h

/-- All that a done write can be: nothing while the cache is isolated, or the bytes at the translated address. -/
theorem memWrite_done {s u : State} {va v : Word} {n : Nat} (h : memWrite s va n v = .done u) :
    u = s ∨ ∃ pa, StoreReady s va n pa ∧
      u = { s with mem := Memory.writeBytes s.mem pa (lowBytes v n),
                   written := recordWritten s.written (wordAddress pa).toNat } := by
  obtain ⟨⟨pa, c⟩, ht, h⟩ := Access.andThen_eq_done h
  cases hi : srIsc s.cp0.sr with
  | true => simp [hi] at h; exact .inl h.symm
  | false =>
    cases hb : s.platform.busError pa .store with
    | true => simp [hi, hb] at h
    | false =>
      cases hp : s.platform.writableAt pa n with
      | false => simp [hi, hb, hp] at h
      | true =>
        simp [hi, hb, hp] at h
        exact .inr ⟨pa, ⟨⟨c, ht⟩, hi, hb, hp⟩, h.symm⟩

end Sys2Proof.Machine
end

