-- ==== Sys2Proof/Laws/Shapes.lean ====
section
/-! SUPPORT. What each shape of a meaning does, once: its next state where nothing stops it, all that it can do
where it answers a next state, and the frame of the ways an instruction completes. -/

namespace Sys2Proof.Machine

/-! ## The frame of a completion -/

theorem regsAfter_setX (s : State) (r : Reg) (v : Word) : RegsAfter s (s.setX r v).retire r v := fun q => by
  rw [State.retire_x, State.x_setX]

theorem regsAfter_retireLoad (s : State) (r : Reg) (v : Word) : RegsAfter s (s.retireLoad r v) r v := fun q => by
  rw [State.retireLoad_x, State.x_setX]

theorem sameRest_setX_retire (s : State) (r : Reg) (v : Word) : SameRest s (s.setX r v).retire := by
  simp [SameRest, SameHiLo, SameSystem, SameMemory, SameWorld]

theorem sameRest_retireLoad (s : State) (r : Reg) (v : Word) : SameRest s (s.retireLoad r v) := by
  simp [SameRest, SameHiLo, SameSystem, SameMemory, SameWorld]

theorem sameRest_retireJump (s : State) (taken : Bool) (target : Word) : SameRest s (s.retireJump taken target) := by
  simp [SameRest, SameHiLo, SameSystem, SameMemory, SameWorld]

theorem sameRest_setX_retireJump (s : State) (r : Reg) (v : Word) (taken : Bool) (target : Word) :
    SameRest s ((s.setX r v).retireJump taken target) := by
  simp [SameRest, SameHiLo, SameSystem, SameMemory, SameWorld]

theorem advances_retire (s : State) : Advances s s.retire := by simp [Advances]

theorem advances_setX_retire (s : State) (r : Reg) (v : Word) : Advances s (s.setX r v).retire := by simp [Advances]

theorem advancesLoad_retireLoad (s : State) (r : Reg) (v : Word) : AdvancesLoad s (s.retireLoad r v) r := by
  simp [AdvancesLoad]

theorem transfers_retireJump (s : State) (taken : Bool) (target : Word) (p : Prop) (h : taken = true ↔ p) :
    Transfers s (s.retireJump taken target) p target := by
  cases taken <;> simp_all [Transfers]

/-- An instruction whose outcome is the write of v to r has computed it. -/
theorem computes_of {i : Instr} {s : State} {r : Reg} {v : Word} (h : exec i s = .next (s.setX r v).retire) :
    Computes i s r v :=
  ⟨_, h, regsAfter_setX s r v, sameRest_setX_retire s r v, advances_setX_retire s r v⟩

/-- An instruction whose outcome is a load of v into r has loaded it. -/
theorem loads_of {i : Instr} {s : State} {r : Reg} {v : Word} (h : exec i s = .next (s.retireLoad r v)) :
    Loads i s r v :=
  ⟨_, h, regsAfter_retireLoad s r v, sameRest_retireLoad s r v, advancesLoad_retireLoad s r v⟩

/-- An instruction whose outcome is a transfer jumps. -/
theorem jumps_of {i : Instr} {s : State} {taken : Bool} {target : Word} {p : Prop} (hp : taken = true ↔ p)
    (h : exec i s = .next (s.retireJump taken target)) : Jumps i s p target :=
  ⟨_, h, fun _ => rfl, sameRest_retireJump s taken target, transfers_retireJump s taken target p hp⟩

/-- An instruction whose outcome is a transfer after the write of its link value links. -/
theorem links_of {i : Instr} {s : State} {r : Reg} {taken : Bool} {target : Word} {p : Prop} (hp : taken = true ↔ p)
    (h : exec i s = .next ((s.setX r (s.pc + 8#32)).retireJump taken target)) : Links i s r p target := by
  refine ⟨_, h, fun q => ?_, sameRest_setX_retireJump s r _ taken target, ?_⟩
  · rw [State.retireJump_x, State.x_setX]
  · cases taken <;> simp_all [Transfers]

/-! ## The shapes where nothing stops them -/

theorem computeUnary_run {rd rs : Reg} {f : Word → Word} {s : State} (h : s.ld ≠ some rs) :
    computeUnary rd rs f s = .next (s.setX rd (f (s.x rs))).retire := reading_free h _

theorem computeBinary_run {rd rs rt : Reg} {f : Word → Word → Word} {s : State} (h1 : s.ld ≠ some rs)
    (h2 : s.ld ≠ some rt) : computeBinary rd rs rt f s = .next (s.setX rd (f (s.x rs) (s.x rt))).retire :=
  (reading_free h1 _).trans (reading_free h2 _)

theorem computeHiLo_run {rs rt : Reg} {f : Word → Word → Word × Word} {s : State} (h1 : s.ld ≠ some rs)
    (h2 : s.ld ≠ some rt) (h3 : s.hiAge = 0) (h4 : s.loAge = 0) :
    computeHiLo rs rt f s =
      .next { s.retire with hi := (f (s.x rs) (s.x rt)).1, lo := (f (s.x rs) (s.x rt)).2 } :=
  (reading_free h1 _).trans <| (reading_free h2 _).trans <| hiLoFree_free (fun _ => h3) (fun _ => h4) _

theorem branchZero_run {cond : Word → Bool} {rs : Reg} {offset : Half} {s : State} (h1 : s.ld ≠ some rs)
    (h2 : s.slot = false) :
    branchZero cond rs offset s = .next (s.retireJump (cond (s.x rs)) (branchTarget s.pc offset)) :=
  (reading_free h1 _).trans (outsideSlot_free h2 _)

theorem loadSized_run {n : Nat} {ext : Word → Word} {rt base : Reg} {offset : Half} {s : State} {pa : Word}
    (h1 : s.ld ≠ some base) (h2 : (effectiveAddress (s.x base) offset).toNat % n = 0)
    (h3 : LoadReady s (effectiveAddress (s.x base) offset) n pa) :
    loadSized n ext rt base offset s = .next (s.retireLoad rt (ext (Memory.readSize s.mem pa n))) := by
  unfold loadSized
  rw [reading_free h1]
  simp only [checkAligned_ok h2, Access.andThen_done, memRead_ready h3, Access.finish_done]

theorem loadMerged_run {merge : Nat → Word → Word → Word} {rt base : Reg} {offset : Half} {s : State} {pa : Word}
    (h1 : s.ld ≠ some base) (h3 : LoadReady s (wordAddress (effectiveAddress (s.x base) offset)) 4 pa) :
    loadMerged merge rt base offset s =
      .next (s.retireLoad rt (merge (byteIndex (effectiveAddress (s.x base) offset)) (Memory.readWord s.mem pa) (s.x rt))) := by
  unfold loadMerged
  rw [reading_free h1]
  simp only [memRead_ready h3, Access.finish_done]
  rfl

theorem storeBytes_run {va pa v : Word} {n : Nat} {s : State} (h : StoreReady s va n pa) :
    storeBytes va n v s =
      .next { s.retire with mem := Memory.writeBytes s.mem pa (lowBytes v n),
                            written := recordWritten s.written (wordAddress pa).toNat } := by
  simp only [storeBytes, memWrite_ready h, Access.finish_done]
  rfl

theorem storeSized_run {n : Nat} {rt base : Reg} {offset : Half} {s : State} (h1 : s.ld ≠ some base)
    (h2 : s.ld ≠ some rt) (h3 : (effectiveAddress (s.x base) offset).toNat % n = 0) :
    storeSized n rt base offset s = storeBytes (effectiveAddress (s.x base) offset) n (s.x rt) s := by
  unfold storeSized
  rw [reading_free h1, reading_free h2]
  simp only [checkAligned_ok h3, Access.finish_done]

/-! ## With the cache isolated (20_memory.md R91) -/

/-- The value an isolated load of n bytes reads: free, and of the width it reads (log 13). -/
theorem loadSized_isolated {n : Nat} {ext : Word → Word} {rt base : Reg} {offset : Half} {s : State} {u : Translated}
    (h1 : s.ld ≠ some base) (h2 : (effectiveAddress (s.x base) offset).toNat % n = 0)
    (ht : translateAddress s (effectiveAddress (s.x base) offset) .load = .done u) (hi : srIsc s.cp0.sr = true) :
    loadSized n ext rt base offset s =
      .next (s.retireLoad rt (ext (((Config.isolatedLoad s.tick).setWidth (8 * n)).setWidth 32))) := by
  unfold loadSized
  rw [reading_free h1]
  simp only [checkAligned_ok h2, Access.andThen_done, memRead_isolated ht hi, Access.finish_done]

theorem loadMerged_isolated {merge : Nat → Word → Word → Word} {rt base : Reg} {offset : Half} {s : State}
    {u : Translated} (h1 : s.ld ≠ some base)
    (ht : translateAddress s (wordAddress (effectiveAddress (s.x base) offset)) .load = .done u)
    (hi : srIsc s.cp0.sr = true) :
    ∃ v, loadMerged merge rt base offset s = .next (s.retireLoad rt v) := by
  unfold loadMerged
  rw [reading_free h1]
  simp only [memRead_isolated ht hi, Access.finish_done]
  exact ⟨_, rfl⟩

theorem storeBytes_isolated {va v : Word} {n : Nat} {s : State} {u : Translated}
    (ht : translateAddress s va .store = .done u) (hi : srIsc s.cp0.sr = true) :
    storeBytes va n v s = .next s.retire := by
  simp only [storeBytes, memWrite_isolated ht hi, Access.finish_done]

/-! ## All that a shape can do -/

theorem computeUnary_next {rd rs : Reg} {f : Word → Word} {s t : State} (h : computeUnary rd rs f s = .next t) :
    t = (s.setX rd (f (s.x rs))).retire := by
  cases (reading_next h).2; rfl

theorem computeBinary_next {rd rs rt : Reg} {f : Word → Word → Word} {s t : State}
    (h : computeBinary rd rs rt f s = .next t) : t = (s.setX rd (f (s.x rs) (s.x rt))).retire := by
  cases (reading_next (reading_next h).2).2; rfl

theorem writeOrOverflow_next {rd : Reg} {r : Option Word} {s t : State} (h : writeOrOverflow rd r s = .next t) :
    (∃ v, r = some v ∧ t = (s.setX rd v).retire) ∨ (r = none ∧ t = s.takeException .ov) := by
  cases r with
  | some v => exact .inl ⟨v, rfl, by cases h; rfl⟩
  | none => exact .inr ⟨rfl, by cases h; rfl⟩

theorem computeHiLo_next {rs rt : Reg} {f : Word → Word → Word × Word} {s t : State}
    (h : computeHiLo rs rt f s = .next t) :
    t = { s.retire with hi := (f (s.x rs) (s.x rt)).1, lo := (f (s.x rs) (s.x rt)).2 } := by
  cases hiLoFree_next (reading_next (reading_next h).2).2; rfl

theorem branchZero_next {cond : Word → Bool} {rs : Reg} {offset : Half} {s t : State}
    (h : branchZero cond rs offset s = .next t) :
    t = s.retireJump (cond (s.x rs)) (branchTarget s.pc offset) := by
  cases (outsideSlot_next (reading_next h).2).2; rfl

theorem branchZeroLink_next {cond : Word → Bool} {rs : Reg} {offset : Half} {s t : State}
    (h : branchZeroLink cond rs offset s = .next t) :
    t = (s.setX 31#5 (linkAddress s.pc)).retireJump (cond (s.x rs)) (branchTarget (s.setX 31#5 (linkAddress s.pc)).pc offset) := by
  unfold branchZeroLink at h
  split at h
  · cases (outsideSlot_next (reading_next h).2).2; rfl
  · cases h

theorem loadSized_next {n : Nat} {ext : Word → Word} {rt base : Reg} {offset : Half} {s t : State}
    (h : loadSized n ext rt base offset s = .next t) :
    (∃ v, t = s.retireLoad rt v) ∨ ∃ e, t = s.takeException e := by
  rcases Access.finish_next (reading_next h).2 with ⟨v, -, h⟩ | ⟨e, -, h⟩
  · cases h; exact .inl ⟨_, rfl⟩
  · exact .inr ⟨e, h⟩

theorem loadMerged_next {merge : Nat → Word → Word → Word} {rt base : Reg} {offset : Half} {s t : State}
    (h : loadMerged merge rt base offset s = .next t) :
    (∃ v, t = s.retireLoad rt v) ∨ ∃ e, t = s.takeException e := by
  rcases Access.finish_next (reading_next h).2 with ⟨v, -, h⟩ | ⟨e, -, h⟩
  · cases h; exact .inl ⟨_, rfl⟩
  · exact .inr ⟨e, h⟩

/-- A store that answers a next state wrote its bytes, or met an isolated cache, or took an exception. -/
theorem storeBytes_next {va v : Word} {n : Nat} {s t : State} (h : storeBytes va n v s = .next t) :
    (∃ pa, StoreReady s va n pa ∧
      t = { s.retire with mem := Memory.writeBytes s.mem pa (lowBytes v n),
                          written := recordWritten s.written (wordAddress pa).toNat }) ∨
    t = s.retire ∨ ∃ e, t = s.takeException e := by
  rcases Access.finish_next h with ⟨u, hu, h⟩ | ⟨e, -, h⟩
  · cases h
    rcases memWrite_done hu with rfl | ⟨pa, hr, rfl⟩
    · exact .inr (.inl rfl)
    · exact .inl ⟨pa, hr, rfl⟩
  · exact .inr (.inr ⟨e, h⟩)

theorem storeSized_next {n : Nat} {rt base : Reg} {offset : Half} {s t : State}
    (h : storeSized n rt base offset s = .next t) :
    (storeBytes (effectiveAddress (s.x base) offset) n (s.x rt) s = .next t ∧
      (effectiveAddress (s.x base) offset).toNat % n = 0) ∨ ∃ e, t = s.takeException e := by
  have h := (reading_next (reading_next h).2).2
  by_cases ha : (effectiveAddress (s.x base) offset).toNat % n = 0
  · simp only [checkAligned_ok ha, Access.finish_done] at h; exact .inl ⟨h, ha⟩
  · simp only [checkAligned_bad ha, Access.finish_trap] at h; cases h; exact .inr ⟨_, rfl⟩

theorem copLoad_next {z : BitVec 2} {base : Reg} {offset : Half} {s t : State} {k : Word → Result State}
    (h : copLoad z base offset s k = .next t) : (∃ v, k v = .next t) ∨ ∃ e, t = s.takeException e := by
  rcases withCop_next (reading_next h).2 with ⟨-, h⟩ | ⟨-, h⟩
  · rcases Access.finish_next h with ⟨v, -, h⟩ | ⟨e, -, h⟩
    · exact .inl ⟨v, h⟩
    · exact .inr ⟨e, h⟩
  · exact .inr ⟨_, h⟩

theorem copStore_next {z : BitVec 2} {base : Reg} {offset : Half} {s t : State} {k : Word → Result State}
    (h : copStore z base offset s k = .next t) :
    (k (effectiveAddress (s.x base) offset) = .next t ∧ (effectiveAddress (s.x base) offset).toNat % 4 = 0) ∨
      ∃ e, t = s.takeException e := by
  rcases withCop_next (reading_next h).2 with ⟨-, h⟩ | ⟨-, h⟩
  · by_cases ha : (effectiveAddress (s.x base) offset).toNat % 4 = 0
    · simp only [checkAligned_ok ha, Access.finish_done] at h; exact .inl ⟨h, ha⟩
    · simp only [checkAligned_bad ha, Access.finish_trap] at h; cases h; exact .inr ⟨_, rfl⟩
  · exact .inr ⟨_, h⟩

/-- The read of an SWC2 that ends in a bus error either stands or is undone. -/
theorem cop2AfterBusError_cases (c2 : Nat) (rt : Reg) :
    cop2AfterBusError c2 rt = c2 ∨ cop2AfterBusError c2 rt = (Config.cop2ReadData c2 rt).2 := by
  unfold cop2AfterBusError
  split
  · exact .inr rfl
  · exact .inl rfl

/-- An SWC2 that answers a next state wrote the word it read, or met an isolated cache, or took an exception: in the
state before it, or, for one of the write, in that state with what a bus error leaves of the read. -/
theorem execSwc2_next {rt base : Reg} {offset : Half} {s t : State} (h : execSwc2 rt base offset s = .next t) :
    (∃ pa, StoreReady s (effectiveAddress (s.x base) offset) 4 pa ∧
      t = { s.retire with mem := Memory.writeBytes s.mem pa (lowBytes (Config.cop2ReadData s.c2 rt).1 4),
                          written := recordWritten s.written (wordAddress pa).toNat,
                          c2 := (Config.cop2ReadData s.c2 rt).2 }) ∨
    t = { s.retire with c2 := (Config.cop2ReadData s.c2 rt).2 } ∨ (∃ e, t = s.takeException e) ∨
    t = { s with c2 := cop2AfterBusError s.c2 rt }.takeException .dbe := by
  rcases copStore_next h with ⟨h, -⟩ | ⟨e, h⟩
  · rcases Access.finish_next h with ⟨u, hu, h⟩ | ⟨e, -, h⟩
    · rcases Access.finish_next h with ⟨w, hw, h⟩ | ⟨e, he, h⟩
      · cases h
        rcases memWrite_done hw with rfl | ⟨pa, hr, rfl⟩
        · exact .inr (.inl rfl)
        · exact .inl ⟨pa, hr, rfl⟩
      · rw [memWrite_trap hu he] at h
        exact .inr (.inr (.inr h))
    · exact .inr (.inr (.inl ⟨e, h⟩))
  · exact .inr (.inr (.inl ⟨e, h⟩))

/-! ## Addresses -/

/-- The value of a concatenation, as a sum. -/
theorem toNat_append_add {m n : Nat} (a : BitVec m) (b : BitVec n) :
    (a ++ b).toNat = a.toNat * 2 ^ n + b.toNat := by
  rw [BitVec.toNat_append, ← Nat.shiftLeft_add_eq_or_of_lt b.isLt, Nat.shiftLeft_eq]

/-- The low twelve bits of an address pass through translation (20_memory.md R79, R80). -/
theorem translate_low {s : State} {va : Word} {kind : AccessKind} {t : Translated}
    (h : translateAddress s va kind = .done t) : t.pa.toNat % 4096 = va.toNat % 4096 := by
  have unmapped : ((0#3 ++ va.extractLsb' 0 29 : Word)).toNat % 4096 = va.toNat % 4096 := by
    rw [toNat_append_add, BitVec.extractLsb'_toNat]
    simp only [Nat.shiftRight_zero, BitVec.toNat_ofNat]
    omega
  rw [translateAddress_eq] at h
  split at h
  · cases h
  split at h
  · cases h; exact unmapped
  split at h
  · cases h; exact unmapped
  unfold translateMapped at h
  split at h
  · cases h
  · rename_i i _
    rcases throughEntry_cases (s.tlb.get i) va kind with ⟨u, hu, -, -, hpa, -⟩ | ⟨hu, -⟩ | ⟨hu, -⟩
    · rw [hu] at h; cases h
      rw [hpa, toNat_append_add, BitVec.extractLsb'_toNat]
      simp only [Nat.shiftRight_zero]
      omega
    · rw [hu] at h; cases h
    · rw [hu] at h; cases h
  · cases h

theorem byteIndex_eq (va : Word) : byteIndex va = va.toNat % 4 := by simp [byteIndex]

theorem wordAddress_toNat (va : Word) : (wordAddress va).toNat = va.toNat / 4 * 4 := by
  have := va.isLt
  simp only [wordAddress, toNat_append_add, BitVec.extractLsb'_toNat, Nat.shiftRight_eq_div_pow, BitVec.toNat_ofNat]
  omega

end Sys2Proof.Machine
end

