-- ==== Sys2Proof/Laws/Bytes.lean ====
section
/-! SUPPORT. Words and halfwords byte by byte: what the reads of memory assemble, what the stores take from a
register, and the merges of the left and right accesses (20_memory.md R64, 40_load_store.md R146 to R153). -/

namespace Sys2Proof.Machine

/-! ## Addresses -/

/-- The address i bytes on, where it does not wrap. -/
theorem toNat_add_ofNat (pa : Word) (i : Nat) (h : pa.toNat + i < 2 ^ 32) :
    (pa + BitVec.ofNat 32 i).toNat = pa.toNat + i := by
  rw [BitVec.toNat_add, BitVec.toNat_ofNat]
  omega

/-- Translation keeps the offset in the page, so an aligned object does not wrap. -/
theorem LoadReady.low {s : State} {va pa : Word} {n : Nat} (h : LoadReady s va n pa) :
    pa.toNat % 4096 = va.toNat % 4096 := by
  obtain ⟨⟨c, h⟩, -⟩ := h
  exact translate_low h

/-- The same for a store. -/
theorem StoreReady.low {s : State} {va pa : Word} {n : Nat} (h : StoreReady s va n pa) :
    pa.toNat % 4096 = va.toNat % 4096 := by
  obtain ⟨⟨c, h⟩, -⟩ := h
  exact translate_low h

/-! ## The bytes of a word -/

/-- The number that four bytes make. -/
theorem toNat_four_bytes (b3 b2 b1 b0 : Byte) :
    (b3 ++ b2 ++ b1 ++ b0 : Word).toNat = b3.toNat * 2 ^ 24 + b2.toNat * 2 ^ 16 + b1.toNat * 2 ^ 8 + b0.toNat := by
  have h : (b3 ++ b2 ++ b1 ++ b0 : Word).toNat = (b3 ++ b2 ++ b1).toNat * 2 ^ 8 + b0.toNat := toNat_append_add _ _
  rw [h, toNat_append_add, toNat_append_add]
  omega

/-- Byte j of a word of four bytes. -/
theorem byte_of_four (b3 b2 b1 b0 : Byte) (j : Nat) (hj : j < 4) :
    (b3 ++ b2 ++ b1 ++ b0 : Word).extractLsb' (8 * j) 8 =
      if j = 0 then b0 else if j = 1 then b1 else if j = 2 then b2 else b3 := by
  have h0 := b0.isLt
  have h1 := b1.isLt
  have h2 := b2.isLt
  have h3 := b3.isLt
  interval_cases j <;>
    (apply BitVec.eq_of_toNat_eq
     rw [BitVec.extractLsb'_toNat, toNat_four_bytes, Nat.shiftRight_eq_div_pow]
     simp only [if_true, if_false, Nat.reduceEqDiff, Nat.reduceMul]
     omega)

/-- The word at an address, as bytes, where it does not wrap (20_memory.md R64). -/
theorem Memory.readWord_eq (m : Memory) (pa : Word) (h : pa.toNat + 3 < 2 ^ 32) :
    Memory.readWord m pa = Memory.read m (pa.toNat + 3) ++ Memory.read m (pa.toNat + 2) ++
      Memory.read m (pa.toNat + 1) ++ Memory.read m pa.toNat := by
  have e1 : (pa + 1#32).toNat = pa.toNat + 1 := toNat_add_ofNat pa 1 (by omega)
  have e2 : (pa + 2#32).toNat = pa.toNat + 2 := toNat_add_ofNat pa 2 (by omega)
  have e3 : (pa + 3#32).toNat = pa.toNat + 3 := toNat_add_ofNat pa 3 (by omega)
  unfold Memory.readWord Memory.readByte
  rw [wordOfBytes_eq, e1, e2, e3]

/-- Byte j of the word at an address. -/
theorem Memory.byte_readWord (m : Memory) (pa : Word) (h : pa.toNat + 3 < 2 ^ 32) (j : Nat) (hj : j < 4) :
    (Memory.readWord m pa).extractLsb' (8 * j) 8 = Memory.read m (pa.toNat + j) := by
  rw [Memory.readWord_eq m pa h, byte_of_four _ _ _ _ j hj]
  interval_cases j <;> rfl

/-- The halfword at an address, as bytes, where it does not wrap (20_memory.md R64). -/
theorem Memory.readHalf_eq (m : Memory) (pa : Word) (h : pa.toNat + 1 < 2 ^ 32) :
    Memory.readHalf m pa = Memory.read m (pa.toNat + 1) ++ Memory.read m pa.toNat := by
  have e1 : (pa + 1#32).toNat = pa.toNat + 1 := toNat_add_ofNat pa 1 h
  unfold Memory.readHalf Memory.readByte
  rw [halfOfBytes_eq, e1]

/-- Two words with the same four bytes are equal. -/
theorem eq_of_bytes {v w : Word} (h : ∀ j, j < 4 → v.extractLsb' (8 * j) 8 = w.extractLsb' (8 * j) 8) : v = w := by
  apply BitVec.eq_of_getLsbD_eq
  intro k hk
  have := congrArg (fun b : Byte => b.getLsbD (k % 8)) (h (k / 8) (by omega))
  simpa [Nat.mod_lt, Nat.div_add_mod] using this

/-! ## The merges of LWL and LWR -/

/-- The bytes of LWL's result: with k = va[1:0], the top k + 1 come from memory (40_load_store.md R146). -/
theorem mergeLeft_byte (k j : Nat) (hk : k < 4) (hj : j < 4) (w old : Word) :
    (mergeLeft k w old).extractLsb' (8 * j) 8 =
      if 3 ≤ j + k then w.extractLsb' (8 * (j + k - 3)) 8 else old.extractLsb' (8 * j) 8 := by
  apply BitVec.eq_of_getLsbD_eq
  intro i hi
  interval_cases k <;> interval_cases j <;> simp [mergeLeft] <;> interval_cases i <;> simp

/-- The bytes of LWR's result: the low 4 - k come from memory (40_load_store.md R147). -/
theorem mergeRight_byte (k j : Nat) (hk : k < 4) (hj : j < 4) (w old : Word) :
    (mergeRight k w old).extractLsb' (8 * j) 8 =
      if j + k < 4 then w.extractLsb' (8 * (j + k)) 8 else old.extractLsb' (8 * j) 8 := by
  apply BitVec.eq_of_getLsbD_eq
  intro i hi
  interval_cases k <;> interval_cases j <;> simp [mergeRight] <;> interval_cases i <;> simp

/-! ## The bytes of a store -/

/-- The bytes a store writes, in memory order (20_memory.md R64). -/
theorem lowBytes_getD (v : Word) (n i : Nat) (h : i < n) (d : Byte) : (lowBytes v n).getD i d = v.extractLsb' (8 * i) 8 := by
  induction n generalizing v i with
  | zero => omega
  | succ n ih =>
    cases i with
    | zero => apply BitVec.eq_of_toNat_eq; simp [lowBytes]
    | succ i =>
      have := ih (v >>> 8) i (by omega)
      simp only [lowBytes, List.getD_cons_succ, this]
      apply BitVec.eq_of_getLsbD_eq
      intro k hk
      simp [hk]
      congr 1
      omega

/-- What SWL stores, byte by byte: the high bytes of the register (40_load_store.md R152). -/
theorem storeLeftValue_byte (k i : Nat) (v : Word) :
    (storeLeftValue k v).extractLsb' (8 * i) 8 = v.extractLsb' (8 * (3 - k + i)) 8 := by
  apply BitVec.eq_of_getLsbD_eq
  intro j hj
  simp only [storeLeftValue, BitVec.getLsbD_extractLsb', BitVec.getLsbD_ushiftRight]
  congr 2
  omega

end Sys2Proof.Machine
end

