-- ==== Sys2Proof/Laws/Translation.lean ====
section
/-! SUPPORT. Translation by segment and the entries of the TLB that match, in the terms of Safety.lean
(20_memory.md R78 to R80). -/

namespace Sys2Proof.Machine

/-- An entry matches exactly when it is one of the hits of the lookup. -/
theorem matches_iff (s : State) (va : Word) (i : Fin Config.tlbEntries) :
    Matches s i va ↔ i ∈ tlbHits s.tlb (vpnOf va) (asidOf s.cp0.entryHi) := by
  simp [tlbHits, Matches, TlbEntry.hits, vpnOf, asidOf]

/-- No entry is listed twice among the hits. -/
theorem tlbHits_nodup (tlb : Vector TlbEntry Config.tlbEntries) (vpn : BitVec 20) (asid : BitVec 6) : (tlbHits tlb vpn asid).Nodup :=
  (List.nodup_finRange Config.tlbEntries).filter _

/-- No matching entry: no hit. -/
theorem tlbHits_none {s : State} {va : Word} (h : ∀ i, ¬Matches s i va) :
    tlbHits s.tlb (vpnOf va) (asidOf s.cp0.entryHi) = [] := by
  rw [List.eq_nil_iff_forall_not_mem]
  intro i hi
  exact h i ((matches_iff s va i).2 hi)

/-- One matching entry: one hit. -/
theorem tlbHits_one {s : State} {va : Word} {i : Fin Config.tlbEntries} (h : Matches s i va) (hu : ∀ j, Matches s j va → j = i) :
    tlbHits s.tlb (vpnOf va) (asidOf s.cp0.entryHi) = [i] := by
  have hm := matches_iff s va
  have hn := tlbHits_nodup s.tlb (vpnOf va) (asidOf s.cp0.entryHi)
  have hi := (hm i).1 h
  generalize tlbHits s.tlb (vpnOf va) (asidOf s.cp0.entryHi) = l at *
  match l with
  | [] => simp at hi
  | [a] => simp only [List.mem_singleton] at hi; rw [hi]
  | a :: b :: r =>
    have ha := hu a ((hm a).2 (by simp))
    have hb := hu b ((hm b).2 (by simp))
    rw [ha, hb] at hn
    simp at hn

/-- Two matching entries: at least two hits. -/
theorem tlbHits_two {s : State} {va : Word} {i j : Fin Config.tlbEntries} (hi : Matches s i va) (hj : Matches s j va) (h : i ≠ j) :
    ∃ a b r, tlbHits s.tlb (vpnOf va) (asidOf s.cp0.entryHi) = a :: b :: r := by
  rw [matches_iff] at hi hj
  generalize tlbHits s.tlb (vpnOf va) (asidOf s.cp0.entryHi) = l at *
  match l with
  | [] => simp at hi
  | [a] => simp only [List.mem_singleton] at hi hj; exact absurd (hi.trans hj.symm) h
  | a :: b :: r => exact ⟨a, b, r, rfl⟩

/-- Bit 31 of an address is its sign bit. -/
theorem getLsbD_31 (va : Word) : va.getLsbD 31 = va.msb := by rw [BitVec.msb_eq_getLsbD_last]

/-- Three top bits as a number. -/
theorem top3_iff (va : Word) (v : BitVec 3) : va.extractLsb' 29 3 = v ↔ va.toNat / 2 ^ 29 = v.toNat := by
  have := va.isLt
  constructor
  · rintro rfl
    rw [BitVec.extractLsb'_toNat, Nat.shiftRight_eq_div_pow]
    omega
  · intro h
    apply BitVec.eq_of_toNat_eq
    rw [BitVec.extractLsb'_toNat, Nat.shiftRight_eq_div_pow, h]
    have := v.isLt
    omega

/-- kseg0 and kseg1 are the addresses whose two top bits are 10 (20_memory.md R78). -/
theorem unmapped_iff (va : Word) :
    va.extractLsb' 30 2 = 0b10#2 ↔ va.extractLsb' 29 3 = 0b100#3 ∨ va.extractLsb' 29 3 = 0b101#3 := by
  have h : va.extractLsb' 30 2 = 0b10#2 ↔ va.toNat / 2 ^ 30 = 2 := by
    have := va.isLt
    constructor
    · intro h
      have := congrArg BitVec.toNat h
      rw [BitVec.extractLsb'_toNat, Nat.shiftRight_eq_div_pow, BitVec.toNat_ofNat] at this
      omega
    · intro h
      apply BitVec.eq_of_toNat_eq
      rw [BitVec.extractLsb'_toNat, Nat.shiftRight_eq_div_pow, h]
      rfl
  rw [h, top3_iff, top3_iff]
  simp only [BitVec.toNat_ofNat]
  omega

/-- Past the privilege check a kuseg or kseg2 address goes through the TLB (20_memory.md R78, R80). -/
theorem translateAddress_mapped {s : State} {va : Word} (kind : AccessKind)
    (h : s.cp0.sr.getLsbD 1 = false ∨ va.getLsbD 31 = false) (hm : va.extractLsb' 30 2 ≠ 0b10#2) :
    translateAddress s va kind = translateMapped s.tlb s.cp0.entryHi va kind := by
  have hm := fun x => hm ((unmapped_iff va).2 x)
  rw [getLsbD_31] at h
  rw [translateAddress_eq]
  have h : srKuc s.cp0.sr = false ∨ va.msb = false := h
  rw [if_neg (by rcases h with h | h <;> simp [h]), if_neg (by simpa using fun x => hm (.inl x)),
    if_neg (by simpa using fun x => hm (.inr x))]

/-- Past the privilege check a kseg0 or kseg1 address is unmapped (20_memory.md R79). -/
theorem translateAddress_unmapped {s : State} {va : Word} (kind : AccessKind) (h : s.cp0.sr.getLsbD 1 = false)
    (hm : va.extractLsb' 30 2 = 0b10#2) :
    translateAddress s va kind =
      .done { pa := 0#3 ++ va.extractLsb' 0 29, cacheable := va.extractLsb' 29 3 == 0b100#3 } := by
  have h : srKuc s.cp0.sr = false := h
  rw [translateAddress_eq]
  rw [if_neg (by simp [h])]
  rcases (unmapped_iff va).1 hm with hs | hs
  · rw [if_pos (by simp [hs]), hs]; rfl
  · rw [if_neg (by simp [hs]), if_pos (by simp [hs]), hs]; rfl

/-- In user mode an address above kuseg is an Address Error (20_memory.md R78). -/
theorem translateAddress_user {s : State} {va : Word} (kind : AccessKind) (h : s.cp0.sr.getLsbD 1 = true)
    (hv : va.getLsbD 31 = true) : translateAddress s va kind = .trap (addressError kind va) := by
  rw [getLsbD_31] at hv
  have h : srKuc s.cp0.sr = true := h
  rw [translateAddress_eq]
  rw [if_pos (by simp [h, hv])]

end Sys2Proof.Machine
end

