-- ==== Sys2Proof/Laws/Cycle.lean ====
section
/-! SUPPORT. The instruction cycle, once: what a step can answer, and where the fetch reaches memory
(10_state.md R28, 20_memory.md R72, R74). -/

namespace Sys2Proof.Machine

/-! ## The start of a step changes no more than its inputs -/

@[simp] theorem State.beginStep_sr (s : State) : s.beginStep.cp0.sr = s.cp0.sr := rfl
@[simp] theorem State.beginStep_usable (s : State) (z : BitVec 2) : s.beginStep.usable z = s.usable z := rfl
@[simp] theorem State.beginStep_translate (s : State) (va : Word) (kind : AccessKind) :
    translateAddress s.beginStep va kind = translateAddress s va kind := rfl

/-! ## Fetch and load -/

/-- A fetch that is ready gives the word in memory. -/
theorem fetch_ready {s : State} {pa : Word} (h : FetchReady s pa) : fetch s s.pc = .done (Memory.readWord s.mem pa) := by
  obtain ⟨ha, ⟨c, ht, hw⟩, hb, hp⟩ := h
  simp only [fetch, checkAligned_ok ha, Access.andThen_done, ht, hb, hp]
  cases c with
  | false => rfl
  | true => simp [show (wordAddress pa).toNat ∉ s.written from hw rfl]

/-- FetchReady does not see the inputs of a step. -/
theorem FetchReady.begin {s : State} {pa : Word} (h : FetchReady s pa) : FetchReady s.beginStep pa := h

/-- All that a load's access can answer. -/
theorem memRead_cases (s : State) (va : Word) (n : Nat) :
    (∃ e, translateAddress s va .load = .trap e ∧ memRead s va n = .trap e) ∨
    (∃ f, translateAddress s va .load = .stop f ∧ memRead s va n = .stop f) ∨
    ∃ t, translateAddress s va .load = .done t ∧
      ((srIsc s.cp0.sr = true ∧ memRead s va n = .done (((Config.isolatedLoad s.tick).setWidth (8 * n)).setWidth 32)) ∨
        (srIsc s.cp0.sr = false ∧ s.platform.busError t.pa .load = true ∧ memRead s va n = .trap .dbe) ∨
        (srIsc s.cp0.sr = false ∧ s.platform.busError t.pa .load = false ∧ s.platform.populatedAt t.pa n = false ∧
          memRead s va n = .stop .unpopulated) ∨
        (LoadReady s va n t.pa ∧ memRead s va n = .done (Memory.readSize s.mem t.pa n))) := by
  cases ht : translateAddress s va .load with
  | trap e => exact .inl ⟨e, rfl, by simp [memRead, ht]⟩
  | stop f => exact .inr (.inl ⟨f, rfl, by simp [memRead, ht]⟩)
  | done t =>
    refine .inr (.inr ⟨t, rfl, ?_⟩)
    cases hi : srIsc s.cp0.sr with
    | true => exact .inl ⟨rfl, by simp [memRead, ht, hi]⟩
    | false =>
      cases hb : s.platform.busError t.pa .load with
      | true => exact .inr (.inl ⟨rfl, rfl, by simp [memRead, ht, hi, hb]⟩)
      | false =>
        cases hp : s.platform.populatedAt t.pa n with
        | false => exact .inr (.inr (.inl ⟨rfl, rfl, rfl, by simp [memRead, ht, hi, hb, hp]⟩))
        | true => exact .inr (.inr (.inr ⟨⟨⟨_, ht⟩, hi, hb, hp⟩, by simp [memRead, ht, hi, hb, hp]⟩))

/-! ## A step -/

/-- Where no interrupt is taken a step fetches and runs. -/
theorem step_of_noInterrupt {s : State} (h : NoInterrupt s) : step s = fetchAndRun s.beginStep := by
  have h : s.beginStep.interruptPending = false := h
  simp [step, h]

/-- Where one is, it is the whole step. -/
theorem step_of_interrupt {s : State} (h : s.beginStep.interruptPending = true) :
    step s = .next (s.beginStep.takeException .int) := by
  simp [step, h, raise]

/-- A fetched word that decodes is run. -/
theorem fetchAndRun_ready {s : State} {pa : Word} (h : FetchReady s pa) :
    fetchAndRun s =
      match decode (Memory.readWord s.mem pa) with
      | .ok i => exec i s
      | .error e => rejectWord s e := by
  rw [fetchAndRun, fetch_ready h]
  rfl

/-- A rejected word that ends in a next state was for an unusable coprocessor. -/
theorem rejectWord_next {s t : State} {e : DecodeError} (h : rejectWord s e = .next t) :
    ∃ z, t = s.takeException (.cpu z) := by
  cases e <;> first
    | (simp [rejectWord] at h; done)
    | (rcases withCop_next h with ⟨-, h⟩ | ⟨-, h⟩
       · cases h
       · exact ⟨_, h⟩)

/-- All that a step which answers a next state can be: an exception entry in the state with this step's
inputs, or the instruction that was fetched, run in that state. -/
theorem step_next {s t : State} (h : step s = .next t) :
    (∃ e, t = s.beginStep.takeException e) ∨ ∃ i, exec i s.beginStep = .next t := by
  cases hi : s.beginStep.interruptPending with
  | true => rw [step_of_interrupt hi] at h; cases h; exact .inl ⟨_, rfl⟩
  | false =>
    rw [step_of_noInterrupt hi] at h
    rcases Access.finish_next h with ⟨w, -, h⟩ | ⟨e, -, h⟩
    · cases hd : decode w with
      | ok i => rw [hd] at h; exact .inr ⟨i, h⟩
      | error e =>
        rw [hd] at h
        obtain ⟨z, h⟩ := rejectWord_next h
        exact .inl ⟨_, h⟩
    · exact .inl ⟨e, h⟩

end Sys2Proof.Machine
end

