-- ==== Sys2Proof/Laws/Encoding.lean ====
section
/-! SUPPORT. The fields of an encoded word are the fields it was built from (30_encoding.md R101 to R106). -/

namespace Sys2Proof

/-! ## The high and the low part of a concatenation -/

/-- A slice that lies in the low part of a concatenation is a slice of the low part. -/
theorem extract_append_low {m n : Nat} (a : BitVec m) (b : BitVec n) (i k : Nat) (h : i + k ≤ n) :
    (a ++ b).extractLsb' i k = b.extractLsb' i k := by
  apply BitVec.eq_of_getLsbD_eq
  intro j hj
  simp only [BitVec.getLsbD_extractLsb', BitVec.getLsbD_append, hj, decide_true, Bool.true_and]
  rw [if_pos (by omega)]

/-- A slice that lies in the high part of a concatenation is a slice of the high part. -/
theorem extract_append_high {m n : Nat} (a : BitVec m) (b : BitVec n) (i k : Nat) (h : n ≤ i) :
    (a ++ b).extractLsb' i k = a.extractLsb' (i - n) k := by
  apply BitVec.eq_of_getLsbD_eq
  intro j hj
  simp only [BitVec.getLsbD_extractLsb', BitVec.getLsbD_append, hj, decide_true, Bool.true_and]
  rw [if_neg (by omega), show i + j - n = i - n + j by omega]

/-- The whole of a word as a slice. -/
theorem extract_whole {n : Nat} (a : BitVec n) : a.extractLsb' 0 n = a := by
  apply BitVec.eq_of_getLsbD_eq
  intro j hj
  simp [hj]

/-! ## I-type words -/

@[simp] theorem opOf_encodeI (op : BitVec 6) (rs rt : Reg) (imm : Half) : opOf (encodeI op rs rt imm) = op := by
  unfold opOf encodeI
  rw [extract_append_high _ _ _ _ (by decide), extract_append_high _ _ _ _ (by decide),
    extract_append_high _ _ _ _ (by decide)]
  exact extract_whole op

@[simp] theorem rsOf_encodeI (op : BitVec 6) (rs rt : Reg) (imm : Half) : rsOf (encodeI op rs rt imm) = rs := by
  unfold rsOf encodeI
  rw [extract_append_high _ _ _ _ (by decide), extract_append_high _ _ _ _ (by decide),
    extract_append_low _ _ _ _ (by decide)]
  exact extract_whole rs

@[simp] theorem rtOf_encodeI (op : BitVec 6) (rs rt : Reg) (imm : Half) : rtOf (encodeI op rs rt imm) = rt := by
  unfold rtOf encodeI
  rw [extract_append_high _ _ _ _ (by decide), extract_append_low _ _ _ _ (by decide)]
  exact extract_whole rt

@[simp] theorem immOf_encodeI (op : BitVec 6) (rs rt : Reg) (imm : Half) : immOf (encodeI op rs rt imm) = imm := by
  unfold immOf encodeI
  rw [extract_append_low _ _ _ _ (by decide)]
  exact extract_whole imm

/-! ## SPECIAL words -/

@[simp] theorem opOf_encodeR (rs rt rd : Reg) (sh : BitVec 5) (f : BitVec 6) : opOf (encodeR rs rt rd sh f) = 0#6 := by
  unfold opOf encodeR
  rw [extract_append_high _ _ _ _ (by decide), extract_append_high _ _ _ _ (by decide),
    extract_append_high _ _ _ _ (by decide), extract_append_high _ _ _ _ (by decide),
    extract_append_high _ _ _ _ (by decide)]
  exact extract_whole 0#6

@[simp] theorem rsOf_encodeR (rs rt rd : Reg) (sh : BitVec 5) (f : BitVec 6) : rsOf (encodeR rs rt rd sh f) = rs := by
  unfold rsOf encodeR
  rw [extract_append_high _ _ _ _ (by decide), extract_append_high _ _ _ _ (by decide),
    extract_append_high _ _ _ _ (by decide), extract_append_high _ _ _ _ (by decide),
    extract_append_low _ _ _ _ (by decide)]
  exact extract_whole rs

@[simp] theorem rtOf_encodeR (rs rt rd : Reg) (sh : BitVec 5) (f : BitVec 6) : rtOf (encodeR rs rt rd sh f) = rt := by
  unfold rtOf encodeR
  rw [extract_append_high _ _ _ _ (by decide), extract_append_high _ _ _ _ (by decide),
    extract_append_high _ _ _ _ (by decide), extract_append_low _ _ _ _ (by decide)]
  exact extract_whole rt

@[simp] theorem rdOf_encodeR (rs rt rd : Reg) (sh : BitVec 5) (f : BitVec 6) : rdOf (encodeR rs rt rd sh f) = rd := by
  unfold rdOf encodeR
  rw [extract_append_high _ _ _ _ (by decide), extract_append_high _ _ _ _ (by decide),
    extract_append_low _ _ _ _ (by decide)]
  exact extract_whole rd

@[simp] theorem shamtOf_encodeR (rs rt rd : Reg) (sh : BitVec 5) (f : BitVec 6) :
    shamtOf (encodeR rs rt rd sh f) = sh := by
  unfold shamtOf encodeR
  rw [extract_append_high _ _ _ _ (by decide), extract_append_low _ _ _ _ (by decide)]
  exact extract_whole sh

@[simp] theorem functOf_encodeR (rs rt rd : Reg) (sh : BitVec 5) (f : BitVec 6) :
    functOf (encodeR rs rt rd sh f) = f := by
  unfold functOf encodeR
  rw [extract_append_low _ _ _ _ (by decide)]
  exact extract_whole f

/-! ## Coprocessor words -/

@[simp] theorem opOf_encodeMove (op : BitVec 6) (sub rt rd : Reg) : opOf (encodeMove op sub rt rd) = op := by
  unfold opOf encodeMove
  rw [extract_append_high _ _ _ _ (by decide), extract_append_high _ _ _ _ (by decide),
    extract_append_high _ _ _ _ (by decide), extract_append_high _ _ _ _ (by decide)]
  exact extract_whole op

@[simp] theorem rsOf_encodeMove (op : BitVec 6) (sub rt rd : Reg) : rsOf (encodeMove op sub rt rd) = sub := by
  unfold rsOf encodeMove
  rw [extract_append_high _ _ _ _ (by decide), extract_append_high _ _ _ _ (by decide),
    extract_append_high _ _ _ _ (by decide), extract_append_low _ _ _ _ (by decide)]
  exact extract_whole sub

@[simp] theorem rtOf_encodeMove (op : BitVec 6) (sub rt rd : Reg) : rtOf (encodeMove op sub rt rd) = rt := by
  unfold rtOf encodeMove
  rw [extract_append_high _ _ _ _ (by decide), extract_append_high _ _ _ _ (by decide),
    extract_append_low _ _ _ _ (by decide)]
  exact extract_whole rt

@[simp] theorem rdOf_encodeMove (op : BitVec 6) (sub rt rd : Reg) : rdOf (encodeMove op sub rt rd) = rd := by
  unfold rdOf encodeMove
  rw [extract_append_high _ _ _ _ (by decide), extract_append_low _ _ _ _ (by decide)]
  exact extract_whole rd

@[simp] theorem low_encodeMove (op : BitVec 6) (sub rt rd : Reg) :
    (encodeMove op sub rt rd).extractLsb' 0 11 = 0#11 := by
  unfold encodeMove
  rw [extract_append_low _ _ _ _ (by decide)]
  exact extract_whole 0#11

/-- Bit 25 of a word is the highest bit of its rs field. -/
theorem coOf_eq (w : Word) : coOf w = (rsOf w).extractLsb' 4 1 := by
  apply BitVec.eq_of_getLsbD_eq
  intro j hj
  obtain rfl : j = 0 := by omega
  simp [coOf, rsOf]

@[simp] theorem opOf_encodeOp (op : BitVec 6) (co : BitVec 1) (cofun : BitVec 25) : opOf (op ++ co ++ cofun) = op := by
  unfold opOf
  rw [extract_append_high _ _ _ _ (by decide), extract_append_high _ _ _ _ (by decide)]
  exact extract_whole op

@[simp] theorem coOf_encodeOp (op : BitVec 6) (co : BitVec 1) (cofun : BitVec 25) : coOf (op ++ co ++ cofun) = co := by
  unfold coOf
  rw [extract_append_high _ _ _ _ (by decide), extract_append_low _ _ _ _ (by decide)]
  exact extract_whole co

@[simp] theorem cofunOf_encodeOp (op : BitVec 6) (co : BitVec 1) (cofun : BitVec 25) :
    cofunOf (op ++ co ++ cofun) = cofun := by
  unfold cofunOf
  rw [extract_append_low _ _ _ _ (by decide)]
  exact extract_whole cofun

/-! ## J-type and trap words -/

@[simp] theorem opOf_encodeJ (op : BitVec 6) (target : BitVec 26) : opOf (op ++ target) = op := by
  unfold opOf
  rw [extract_append_high _ _ _ _ (by decide)]
  exact extract_whole op

@[simp] theorem targetOf_encodeJ (op : BitVec 6) (target : BitVec 26) : targetOf (op ++ target) = target := by
  unfold targetOf
  rw [extract_append_low _ _ _ _ (by decide)]
  exact extract_whole target

@[simp] theorem opOf_encodeTrap (op : BitVec 6) (code : BitVec 20) (f : BitVec 6) : opOf (op ++ code ++ f) = op := by
  unfold opOf
  rw [extract_append_high _ _ _ _ (by decide), extract_append_high _ _ _ _ (by decide)]
  exact extract_whole op

@[simp] theorem codeOf_encodeTrap (op : BitVec 6) (code : BitVec 20) (f : BitVec 6) :
    codeOf (op ++ code ++ f) = code := by
  unfold codeOf
  rw [extract_append_high _ _ _ _ (by decide), extract_append_low _ _ _ _ (by decide)]
  exact extract_whole code

@[simp] theorem functOf_encodeTrap (op : BitVec 6) (code : BitVec 20) (f : BitVec 6) :
    functOf (op ++ code ++ f) = f := by
  unfold functOf
  rw [extract_append_low _ _ _ _ (by decide)]
  exact extract_whole f

/-! ## Decoding by form -/

theorem ok_congr {α : Type} (f : α → Instr) {a b : α} (h : a = b) :
    (Except.ok (f a) : Except DecodeError Instr) = .ok (f b) := by rw [h]

/-- The decoding of an I-type word goes by its op and reads the other fields as they are. -/
theorem decode_encodeI (op : BitVec 6) (rs rt : Reg) (imm : Half) :
    decode (encodeI op rs rt imm) = decodePrimary op.toNat rs rt imm (encodeI op rs rt imm) := by
  unfold decode
  rw [opOf_encodeI, rsOf_encodeI, rtOf_encodeI, immOf_encodeI]

/-- The decoding of a SPECIAL word goes by its funct and reads the other fields as they are. -/
theorem decode_encodeR (rs rt rd : Reg) (sh : BitVec 5) (f : BitVec 6) :
    decode (encodeR rs rt rd sh f) = decodeSpecial f.toNat rs rt rd sh (encodeR rs rt rd sh f) := by
  have h : decode (encodeR rs rt rd sh f) =
      decodePrimary (opOf (encodeR rs rt rd sh f)).toNat (rsOf (encodeR rs rt rd sh f))
        (rtOf (encodeR rs rt rd sh f)) (immOf (encodeR rs rt rd sh f)) (encodeR rs rt rd sh f) := rfl
  rw [h, opOf_encodeR]
  change decodeSpecial (functOf _).toNat (rsOf _) (rtOf _) (rdOf _) (shamtOf _) _ = _
  rw [functOf_encodeR, rsOf_encodeR, rtOf_encodeR, rdOf_encodeR, shamtOf_encodeR]

/-- The decoding of a J-type word. -/
theorem decode_encodeJ (op : BitVec 6) (target : BitVec 26) :
    decode (op ++ target) =
      decodePrimary op.toNat (rsOf (op ++ target)) (rtOf (op ++ target)) (immOf (op ++ target)) (op ++ target) := by
  unfold decode
  rw [opOf_encodeJ]

/-- The decoding of a SYSCALL or BREAK word. -/
theorem decode_encodeTrap (code : BitVec 20) (f : BitVec 6) :
    decode (0#6 ++ code ++ f) =
      decodeSpecial f.toNat (rsOf (0#6 ++ code ++ f)) (rtOf (0#6 ++ code ++ f)) (rdOf (0#6 ++ code ++ f))
        (shamtOf (0#6 ++ code ++ f)) (0#6 ++ code ++ f) := by
  have h : decode (0#6 ++ code ++ f) =
      decodePrimary (opOf (0#6 ++ code ++ f)).toNat (rsOf (0#6 ++ code ++ f)) (rtOf (0#6 ++ code ++ f))
        (immOf (0#6 ++ code ++ f)) (0#6 ++ code ++ f) := rfl
  rw [h, opOf_encodeTrap]
  change decodeSpecial (functOf _).toNat _ _ _ _ _ = _
  rw [functOf_encodeTrap]

/-- The decoding of a coprocessor move word. -/
theorem decode_encodeMove (op : BitVec 6) (sub rt rd : Reg) :
    decode (encodeMove op sub rt rd) =
      decodePrimary op.toNat sub rt (immOf (encodeMove op sub rt rd)) (encodeMove op sub rt rd) := by
  unfold decode
  rw [opOf_encodeMove, rsOf_encodeMove, rtOf_encodeMove]

/-- A coprocessor move word has zero low bits and its two register fields. -/
theorem canonical_encodeMove (op : BitVec 6) (sub rt rd : Reg) (f : Reg → Reg → Instr) :
    canonical ((encodeMove op sub rt rd).extractLsb' 0 11 == 0#11)
      (f (rtOf (encodeMove op sub rt rd)) (rdOf (encodeMove op sub rt rd))) = .ok (f rt rd) := by
  rw [low_encodeMove, rtOf_encodeMove, rdOf_encodeMove]
  rfl

/-- With bit 25 set the rs field is none of the listed sub-operations, and the word is an operation. -/
theorem decodeCop_op {z : BitVec 2} {mf cf mt ct : Reg → Reg → Instr} {bf bt : Half → Instr}
    {op : Except DecodeError Instr} {sub : Reg} {rt : Nat} {w : Word} (h : coOf w = 1#1) (hs : sub = rsOf w) :
    decodeCop z mf cf mt ct bf bt op sub.toNat rt w = op := by
  have hb : 16 ≤ sub.toNat := by
    have h1 := congrArg BitVec.toNat h
    rw [coOf_eq, ← hs, BitVec.extractLsb'_toNat] at h1
    have := sub.isLt
    simp only [Nat.shiftRight_eq_div_pow, BitVec.toNat_ofNat] at h1
    omega
  unfold decodeCop
  split
  · omega
  · omega
  · omega
  · omega
  · omega
  · rw [h]; rfl

/-- The decoding of a coprocessor operation word. -/
theorem decode_encodeOp (op : BitVec 6) (cofun : BitVec 25) :
    decode (op ++ 1#1 ++ cofun) =
      decodePrimary op.toNat (rsOf (op ++ 1#1 ++ cofun)) (rtOf (op ++ 1#1 ++ cofun)) (immOf (op ++ 1#1 ++ cofun))
        (op ++ 1#1 ++ cofun) := by
  unfold decode
  rw [opOf_encodeOp]

/-! ## Reserved words -/

/-- An op in an N/A cell of the primary map. -/
theorem decodePrimary_reserved {op : Nat} {rs rt : Reg} {imm : Half} {w : Word} (h : op ∈ naPrimary) :
    decodePrimary op rs rt imm w = .ok (.reserved w) := by
  simp only [naPrimary, List.mem_cons, List.not_mem_nil, or_false] at h
  rcases h with h | h | h | h | h | h | h | h | h | h | h | h | h | h | h | h | h | h | h | h | h | h | h | h <;>
    (subst h; rfl)

/-- A funct in an N/A cell of the secondary map. -/
theorem decodeSpecial_reserved {funct : Nat} {rs rt rd : Reg} {sh : BitVec 5} {w : Word} (h : funct ∈ naSecondary) :
    decodeSpecial funct rs rt rd sh w = .ok (.reserved w) := by
  simp only [naSecondary, List.cons_append, List.nil_append, List.mem_cons, List.not_mem_nil, or_false] at h
  rcases h with h | h | h | h | h | h | h | h | h | h | h | h | h | h | h | h | h | h | h | h | h | h | h | h | h | h |
    h | h | h | h | h | h | h | h | h | h <;> (subst h; rfl)

/-- A word of an N/A cell decodes to RESERVED with the whole word (30_encoding.md R116). -/
theorem decode_reserved (w : Word) (h : isReservedWord w = true) : decode w = .ok (.reserved w) := by
  simp only [isReservedWord, Bool.or_eq_true, Bool.and_eq_true, beq_iff_eq, List.contains_iff_mem] at h
  rcases h with h | ⟨h0, h⟩
  · exact decodePrimary_reserved h
  · have h0 : (opOf w).toNat = 0 := h0
    unfold decode
    rw [h0]
    exact decodeSpecial_reserved h

end Sys2Proof
end

