-- ==== Sys2Proof/Laws/Fields.lean ====
section
/-! SUPPORT. The words of coprocessor 0 bit by bit: what each update of SR, Cause, Context, EntryHi and Index does
to bit k, so that no later proof opens a concatenation (10_state.md R32 to R39). -/

namespace Sys2Proof.Machine

/-- Bit j of a field that starts at bit lo is bit lo + j of the word. -/
theorem getLsbD_field {n : Nat} (v : BitVec n) {lo w j k : Nat} (hj : j < w) (hk : lo + j = k) :
    (v.extractLsb' lo w).getLsbD j = v.getLsbD k := by
  rw [BitVec.getLsbD_extractLsb', decide_eq_true hj, Bool.true_and, hk]

theorem srPush_getLsbD (sr : Word) (k : Nat) (hk : k < 32) :
    (srPush sr).getLsbD k = if k < 2 then false else if k < 6 then sr.getLsbD (k - 2) else sr.getLsbD k := by
  unfold srPush
  rw [BitVec.getLsbD_append, BitVec.getLsbD_append]
  by_cases h1 : k < 2
  · simp [h1]
  · by_cases h2 : k < 6
    · rw [if_neg h1, if_pos (by omega), if_neg h1, if_pos h2]
      exact getLsbD_field sr (by omega) (by omega)
    · rw [if_neg h1, if_neg (by omega), if_neg h1, if_neg h2]
      exact getLsbD_field sr (by omega) (by omega)

theorem srPop_getLsbD (sr : Word) (k : Nat) (hk : k < 32) :
    (srPop sr).getLsbD k = if k < 4 then sr.getLsbD (k + 2) else sr.getLsbD k := by
  unfold srPop
  rw [BitVec.getLsbD_append]
  by_cases h1 : k < 4
  · rw [if_pos h1, if_pos h1]
    exact getLsbD_field sr (by omega) (by omega)
  · rw [if_neg h1, if_neg h1]
    exact getLsbD_field sr (by omega) (by omega)

theorem srWrite_getLsbD (sr v : Word) (k : Nat) (hk : k < 32) :
    (srWrite sr v).getLsbD k = if srWriteMask.getLsbD k then v.getLsbD k else sr.getLsbD k := by
  unfold srWrite
  rw [BitVec.getLsbD_or, BitVec.getLsbD_and, BitVec.getLsbD_and, BitVec.getLsbD_not]
  cases srWriteMask.getLsbD k <;> simp [hk]

theorem srRead_getLsbD (sr : Word) (cm : BitVec 1) (k : Nat) (hk : k < 32) (h : k ≠ 19) :
    (srRead sr cm).getLsbD k = sr.getLsbD k := by
  unfold srRead
  rw [BitVec.getLsbD_append, BitVec.getLsbD_append]
  by_cases h1 : k < 19
  · rw [if_pos h1]
    exact getLsbD_field sr (by omega) (by omega)
  · rw [if_neg h1, if_neg (by omega)]
    exact getLsbD_field sr (by omega) (by omega)

theorem causeWithLines_getLsbD (cause : Word) (lines : BitVec 6) (k : Nat) (hk : k < 32) :
    (causeWithLines cause lines).getLsbD k =
      if 10 ≤ k ∧ k < 16 then lines.getLsbD (k - 10) else cause.getLsbD k := by
  unfold causeWithLines
  rw [BitVec.getLsbD_append, BitVec.getLsbD_append]
  by_cases h1 : k < 10
  · rw [if_pos h1, if_neg (by omega)]
    exact getLsbD_field cause (by omega) (by omega)
  · by_cases h2 : k < 16
    · rw [if_neg h1, if_pos (by omega), if_pos (by omega)]
    · rw [if_neg h1, if_neg (by omega), if_neg (by omega)]
      exact getLsbD_field cause (by omega) (by omega)

theorem causeWrite_getLsbD (cause v : Word) (k : Nat) (hk : k < 32) :
    (causeWrite cause v).getLsbD k = if k = 8 ∨ k = 9 then v.getLsbD k else cause.getLsbD k := by
  unfold causeWrite
  rw [BitVec.getLsbD_append, BitVec.getLsbD_append]
  by_cases h1 : k < 8
  · rw [if_pos h1, if_neg (by omega)]
    exact getLsbD_field cause (by omega) (by omega)
  · by_cases h2 : k < 10
    · rw [if_neg h1, if_pos (by omega), if_pos (by omega)]
      exact getLsbD_field v (by omega) (by omega)
    · rw [if_neg h1, if_neg (by omega), if_neg (by omega)]
      exact getLsbD_field cause (by omega) (by omega)

theorem causeEnter_getLsbD (cause : Word) (b : Bool) (e : Exc) (k : Nat) (hk : k < 32) :
    (causeEnter cause b e).getLsbD k =
      if k = 31 then b else if k = 28 ∨ k = 29 then (causeCeAfter cause e).getLsbD (k - 28)
      else if 2 ≤ k ∧ k < 7 then e.code.getLsbD (k - 2) else cause.getLsbD k := by
  unfold causeEnter
  rw [BitVec.getLsbD_append, BitVec.getLsbD_append, BitVec.getLsbD_append, BitVec.getLsbD_append, BitVec.getLsbD_append]
  by_cases h1 : k < 2
  · rw [if_pos h1, if_neg (by omega), if_neg (by omega), if_neg (by omega)]
    exact getLsbD_field cause (by omega) (by omega)
  rw [if_neg h1]
  by_cases h2 : k < 7
  · rw [if_pos (by omega), if_neg (by omega), if_neg (by omega), if_pos (by omega)]
  rw [if_neg (by omega)]
  by_cases h3 : k < 28
  · rw [if_pos (by omega), if_neg (by omega), if_neg (by omega), if_neg (by omega)]
    exact getLsbD_field cause (by omega) (by omega)
  rw [if_neg (by omega)]
  by_cases h4 : k < 30
  · rw [if_pos (by omega), if_neg (by omega), if_pos (by omega), show k - 2 - 5 - 21 = k - 28 by omega]
  rw [if_neg (by omega)]
  by_cases h5 : k = 30
  · rw [if_pos (by omega), if_neg (by omega), if_neg (by omega), if_neg (by omega)]
    exact getLsbD_field cause (by omega) (by omega)
  · rw [if_neg (by omega), if_pos (by omega), show k - 2 - 5 - 21 - 2 - 1 = 0 by omega]
    cases b <;> rfl

theorem contextWithBadVpn_getLsbD (context va : Word) (k : Nat) (hk : k < 32) :
    (contextWithBadVpn context va).getLsbD k =
      if 2 ≤ k ∧ k < 21 then va.getLsbD (k + 10) else context.getLsbD k := by
  unfold contextWithBadVpn
  rw [BitVec.getLsbD_append, BitVec.getLsbD_append]
  by_cases h1 : k < 2
  · rw [if_pos h1, if_neg (by omega)]
    exact getLsbD_field context (by omega) (by omega)
  · by_cases h2 : k < 21
    · rw [if_neg h1, if_pos (by omega), if_pos (by omega)]
      exact getLsbD_field va (by omega) (by omega)
    · rw [if_neg h1, if_neg (by omega), if_neg (by omega)]
      exact getLsbD_field context (by omega) (by omega)

theorem entryHiWithVpn_getLsbD (entryHi va : Word) (k : Nat) (hk : k < 32) :
    (entryHiWithVpn entryHi va).getLsbD k = if 12 ≤ k then va.getLsbD k else entryHi.getLsbD k := by
  rw [show entryHiWithVpn entryHi va = va.extractLsb' 12 20 ++ entryHi.extractLsb' 0 12 from rfl]
  rw [BitVec.getLsbD_append]
  by_cases h1 : k < 12
  · rw [if_pos h1, if_neg (by omega)]
    exact getLsbD_field entryHi (by omega) (by omega)
  · rw [if_neg h1, if_pos (by omega)]
    exact getLsbD_field va (by omega) (by omega)

theorem indexWord_getLsbD (p : BitVec 1) (i : BitVec 6) (k : Nat) (hk : k < 32) :
    (indexWord p i).getLsbD k =
      if k = 31 then p.getLsbD 0 else if 8 ≤ k ∧ k < 14 then i.getLsbD (k - 8) else false := by
  unfold indexWord
  rw [BitVec.getLsbD_append, BitVec.getLsbD_append, BitVec.getLsbD_append]
  by_cases h1 : k < 8
  · rw [if_pos h1, if_neg (by omega), if_neg (by omega)]; simp
  rw [if_neg h1]
  by_cases h2 : k < 14
  · rw [if_pos (by omega), if_neg (by omega), if_pos (by omega)]
  rw [if_neg (by omega)]
  by_cases h3 : k < 31
  · rw [if_pos (by omega), if_neg (by omega), if_neg (by omega)]; simp
  · rw [if_neg (by omega), if_pos (by omega), show k - 8 - 6 - 17 = 0 by omega]

theorem randomWord_getLsbD (i : BitVec 6) (k : Nat) (hk : k < 32) :
    (randomWord i).getLsbD k = if 8 ≤ k ∧ k < 14 then i.getLsbD (k - 8) else false := by
  unfold randomWord
  rw [BitVec.getLsbD_append, BitVec.getLsbD_append]
  by_cases h1 : k < 8
  · rw [if_pos h1, if_neg (by omega)]; simp
  rw [if_neg h1]
  by_cases h2 : k < 14
  · rw [if_pos (by omega), if_pos (by omega)]
  · rw [if_neg (by omega), if_neg (by omega)]; simp

/-- The Random field drawn at a step is in 8..63 (10_state.md R33). -/
theorem randomAt_range (t : Nat) : 8 ≤ (randomAt t).toNat := by
  have := (Config.randomDraw t).isLt
  simp only [randomAt, BitVec.toNat_ofNat]
  omega

end Sys2Proof.Machine
end

