-- ==== Sys2Proof/Laws/PerInstr.lean ====
section
/-! SUPPORT. The family DecodeEncode: decoding the encoding of a well-formed instruction gives it back, one
lemma for each constructor of Instr (30_encoding.md R101 to R117). -/

namespace Sys2Proof.Laws.DecodeEncode

/-- Decode and encode agree on the instruction. -/
def Statement (i : Instr) : Prop := i.wf = true → decode (encode i) = .ok i

theorem lb (rt base : Reg) (offset : Half) : Statement (.lb rt base offset) := fun _ => decode_encodeI 0x20#6 base rt offset
theorem lh (rt base : Reg) (offset : Half) : Statement (.lh rt base offset) := fun _ => decode_encodeI 0x21#6 base rt offset
theorem lwl (rt base : Reg) (offset : Half) : Statement (.lwl rt base offset) := fun _ => decode_encodeI 0x22#6 base rt offset
theorem lw (rt base : Reg) (offset : Half) : Statement (.lw rt base offset) := fun _ => decode_encodeI 0x23#6 base rt offset
theorem lbu (rt base : Reg) (offset : Half) : Statement (.lbu rt base offset) := fun _ => decode_encodeI 0x24#6 base rt offset
theorem lhu (rt base : Reg) (offset : Half) : Statement (.lhu rt base offset) := fun _ => decode_encodeI 0x25#6 base rt offset
theorem lwr (rt base : Reg) (offset : Half) : Statement (.lwr rt base offset) := fun _ => decode_encodeI 0x26#6 base rt offset
theorem sb (rt base : Reg) (offset : Half) : Statement (.sb rt base offset) := fun _ => decode_encodeI 0x28#6 base rt offset
theorem sh (rt base : Reg) (offset : Half) : Statement (.sh rt base offset) := fun _ => decode_encodeI 0x29#6 base rt offset
theorem swl (rt base : Reg) (offset : Half) : Statement (.swl rt base offset) := fun _ => decode_encodeI 0x2A#6 base rt offset
theorem sw (rt base : Reg) (offset : Half) : Statement (.sw rt base offset) := fun _ => decode_encodeI 0x2B#6 base rt offset
theorem swr (rt base : Reg) (offset : Half) : Statement (.swr rt base offset) := fun _ => decode_encodeI 0x2E#6 base rt offset
theorem addi (rt rs : Reg) (imm : Half) : Statement (.addi rt rs imm) := fun _ => decode_encodeI 0x08#6 rs rt imm
theorem addiu (rt rs : Reg) (imm : Half) : Statement (.addiu rt rs imm) := fun _ => decode_encodeI 0x09#6 rs rt imm
theorem slti (rt rs : Reg) (imm : Half) : Statement (.slti rt rs imm) := fun _ => decode_encodeI 0x0A#6 rs rt imm
theorem sltiu (rt rs : Reg) (imm : Half) : Statement (.sltiu rt rs imm) := fun _ => decode_encodeI 0x0B#6 rs rt imm
theorem andi (rt rs : Reg) (imm : Half) : Statement (.andi rt rs imm) := fun _ => decode_encodeI 0x0C#6 rs rt imm
theorem ori (rt rs : Reg) (imm : Half) : Statement (.ori rt rs imm) := fun _ => decode_encodeI 0x0D#6 rs rt imm
theorem xori (rt rs : Reg) (imm : Half) : Statement (.xori rt rs imm) := fun _ => decode_encodeI 0x0E#6 rs rt imm
theorem lui (rt : Reg) (imm : Half) : Statement (.lui rt imm) := fun _ => decode_encodeI 0x0F#6 0#5 rt imm
theorem add (rd rs rt : Reg) : Statement (.add rd rs rt) := fun _ => decode_encodeR rs rt rd 0#5 0x20#6
theorem addu (rd rs rt : Reg) : Statement (.addu rd rs rt) := fun _ => decode_encodeR rs rt rd 0#5 0x21#6
theorem sub (rd rs rt : Reg) : Statement (.sub rd rs rt) := fun _ => decode_encodeR rs rt rd 0#5 0x22#6
theorem subu (rd rs rt : Reg) : Statement (.subu rd rs rt) := fun _ => decode_encodeR rs rt rd 0#5 0x23#6
theorem and (rd rs rt : Reg) : Statement (.and rd rs rt) := fun _ => decode_encodeR rs rt rd 0#5 0x24#6
theorem or (rd rs rt : Reg) : Statement (.or rd rs rt) := fun _ => decode_encodeR rs rt rd 0#5 0x25#6
theorem xor (rd rs rt : Reg) : Statement (.xor rd rs rt) := fun _ => decode_encodeR rs rt rd 0#5 0x26#6
theorem nor (rd rs rt : Reg) : Statement (.nor rd rs rt) := fun _ => decode_encodeR rs rt rd 0#5 0x27#6
theorem slt (rd rs rt : Reg) : Statement (.slt rd rs rt) := fun _ => decode_encodeR rs rt rd 0#5 0x2A#6
theorem sltu (rd rs rt : Reg) : Statement (.sltu rd rs rt) := fun _ => decode_encodeR rs rt rd 0#5 0x2B#6
theorem sll (rd rt : Reg) (shamt : BitVec 5) : Statement (.sll rd rt shamt) := fun _ => decode_encodeR 0#5 rt rd shamt 0x00#6
theorem srl (rd rt : Reg) (shamt : BitVec 5) : Statement (.srl rd rt shamt) := fun _ => decode_encodeR 0#5 rt rd shamt 0x02#6
theorem sra (rd rt : Reg) (shamt : BitVec 5) : Statement (.sra rd rt shamt) := fun _ => decode_encodeR 0#5 rt rd shamt 0x03#6
theorem sllv (rd rt rs : Reg) : Statement (.sllv rd rt rs) := fun _ => decode_encodeR rs rt rd 0#5 0x04#6
theorem srlv (rd rt rs : Reg) : Statement (.srlv rd rt rs) := fun _ => decode_encodeR rs rt rd 0#5 0x06#6
theorem srav (rd rt rs : Reg) : Statement (.srav rd rt rs) := fun _ => decode_encodeR rs rt rd 0#5 0x07#6
theorem mult (rs rt : Reg) : Statement (.mult rs rt) := fun _ => decode_encodeR rs rt 0#5 0#5 0x18#6
theorem multu (rs rt : Reg) : Statement (.multu rs rt) := fun _ => decode_encodeR rs rt 0#5 0#5 0x19#6
theorem div (rs rt : Reg) : Statement (.div rs rt) := fun _ => decode_encodeR rs rt 0#5 0#5 0x1A#6
theorem divu (rs rt : Reg) : Statement (.divu rs rt) := fun _ => decode_encodeR rs rt 0#5 0#5 0x1B#6
theorem mfhi (rd : Reg) : Statement (.mfhi rd) := fun _ => decode_encodeR 0#5 0#5 rd 0#5 0x10#6
theorem mthi (rs : Reg) : Statement (.mthi rs) := fun _ => decode_encodeR rs 0#5 0#5 0#5 0x11#6
theorem mflo (rd : Reg) : Statement (.mflo rd) := fun _ => decode_encodeR 0#5 0#5 rd 0#5 0x12#6
theorem mtlo (rs : Reg) : Statement (.mtlo rs) := fun _ => decode_encodeR rs 0#5 0#5 0#5 0x13#6
theorem j (target : BitVec 26) : Statement (.j target) :=
  fun _ => (decode_encodeJ 0x02#6 target).trans (ok_congr .j (targetOf_encodeJ _ _))
theorem jal (target : BitVec 26) : Statement (.jal target) :=
  fun _ => (decode_encodeJ 0x03#6 target).trans (ok_congr .jal (targetOf_encodeJ _ _))
theorem jr (rs : Reg) : Statement (.jr rs) := fun _ => decode_encodeR rs 0#5 0#5 0#5 0x08#6
theorem jalr (rs rd : Reg) : Statement (.jalr rs rd) :=
  fun h => (decode_encodeR rs 0#5 rd 0#5 0x09#6).trans (if_pos h)
theorem beq (rs rt : Reg) (offset : Half) : Statement (.beq rs rt offset) := fun _ => decode_encodeI 0x04#6 rs rt offset
theorem bne (rs rt : Reg) (offset : Half) : Statement (.bne rs rt offset) := fun _ => decode_encodeI 0x05#6 rs rt offset
theorem blez (rs : Reg) (offset : Half) : Statement (.blez rs offset) := fun _ => decode_encodeI 0x06#6 rs 0#5 offset
theorem bgtz (rs : Reg) (offset : Half) : Statement (.bgtz rs offset) := fun _ => decode_encodeI 0x07#6 rs 0#5 offset
theorem bltz (rs : Reg) (offset : Half) : Statement (.bltz rs offset) := fun _ => decode_encodeI 0x01#6 rs 0x00#5 offset
theorem bgez (rs : Reg) (offset : Half) : Statement (.bgez rs offset) := fun _ => decode_encodeI 0x01#6 rs 0x01#5 offset
theorem bltzal (rs : Reg) (offset : Half) : Statement (.bltzal rs offset) :=
  fun h => (decode_encodeI 0x01#6 rs 0x10#5 offset).trans (if_pos h)
theorem bgezal (rs : Reg) (offset : Half) : Statement (.bgezal rs offset) :=
  fun h => (decode_encodeI 0x01#6 rs 0x11#5 offset).trans (if_pos h)
theorem syscall (code : BitVec 20) : Statement (.syscall code) :=
  fun _ => (decode_encodeTrap code 0x0C#6).trans (ok_congr .syscall (codeOf_encodeTrap _ _ _))
theorem brk (code : BitVec 20) : Statement (.brk code) :=
  fun _ => (decode_encodeTrap code 0x0D#6).trans (ok_congr .brk (codeOf_encodeTrap _ _ _))
theorem lwc0 (rt base : Reg) (offset : Half) : Statement (.lwc0 rt base offset) := fun _ => decode_encodeI 0x30#6 base rt offset
theorem lwc1 (rt base : Reg) (offset : Half) : Statement (.lwc1 rt base offset) := fun _ => decode_encodeI 0x31#6 base rt offset
theorem lwc2 (rt base : Reg) (offset : Half) : Statement (.lwc2 rt base offset) := fun _ => decode_encodeI 0x32#6 base rt offset
theorem lwc3 (rt base : Reg) (offset : Half) : Statement (.lwc3 rt base offset) := fun _ => decode_encodeI 0x33#6 base rt offset
theorem swc0 (rt base : Reg) (offset : Half) : Statement (.swc0 rt base offset) := fun _ => decode_encodeI 0x38#6 base rt offset
theorem swc1 (rt base : Reg) (offset : Half) : Statement (.swc1 rt base offset) := fun _ => decode_encodeI 0x39#6 base rt offset
theorem swc2 (rt base : Reg) (offset : Half) : Statement (.swc2 rt base offset) := fun _ => decode_encodeI 0x3A#6 base rt offset
theorem swc3 (rt base : Reg) (offset : Half) : Statement (.swc3 rt base offset) := fun _ => decode_encodeI 0x3B#6 base rt offset
theorem mfc0 (rt rd : Reg) : Statement (.mfc0 rt rd) :=
  fun _ => (decode_encodeMove 0x10#6 0x00#5 rt rd).trans (canonical_encodeMove 0x10#6 0x00#5 rt rd .mfc0)
theorem cfc0 (rt rd : Reg) : Statement (.cfc0 rt rd) :=
  fun _ => (decode_encodeMove 0x10#6 0x02#5 rt rd).trans (canonical_encodeMove 0x10#6 0x02#5 rt rd .cfc0)
theorem mtc0 (rt rd : Reg) : Statement (.mtc0 rt rd) :=
  fun _ => (decode_encodeMove 0x10#6 0x04#5 rt rd).trans (canonical_encodeMove 0x10#6 0x04#5 rt rd .mtc0)
theorem ctc0 (rt rd : Reg) : Statement (.ctc0 rt rd) :=
  fun _ => (decode_encodeMove 0x10#6 0x06#5 rt rd).trans (canonical_encodeMove 0x10#6 0x06#5 rt rd .ctc0)
theorem bc0f (offset : Half) : Statement (.bc0f offset) :=
  fun _ => (decode_encodeI 0x10#6 0x08#5 0x00#5 offset).trans (ok_congr .bc0f (immOf_encodeI _ _ _ _))
theorem bc0t (offset : Half) : Statement (.bc0t offset) :=
  fun _ => (decode_encodeI 0x10#6 0x08#5 0x01#5 offset).trans (ok_congr .bc0t (immOf_encodeI _ _ _ _))
theorem mfc1 (rt rd : Reg) : Statement (.mfc1 rt rd) :=
  fun _ => (decode_encodeMove 0x11#6 0x00#5 rt rd).trans (canonical_encodeMove 0x11#6 0x00#5 rt rd .mfc1)
theorem cfc1 (rt rd : Reg) : Statement (.cfc1 rt rd) :=
  fun _ => (decode_encodeMove 0x11#6 0x02#5 rt rd).trans (canonical_encodeMove 0x11#6 0x02#5 rt rd .cfc1)
theorem mtc1 (rt rd : Reg) : Statement (.mtc1 rt rd) :=
  fun _ => (decode_encodeMove 0x11#6 0x04#5 rt rd).trans (canonical_encodeMove 0x11#6 0x04#5 rt rd .mtc1)
theorem ctc1 (rt rd : Reg) : Statement (.ctc1 rt rd) :=
  fun _ => (decode_encodeMove 0x11#6 0x06#5 rt rd).trans (canonical_encodeMove 0x11#6 0x06#5 rt rd .ctc1)
theorem bc1f (offset : Half) : Statement (.bc1f offset) :=
  fun _ => (decode_encodeI 0x11#6 0x08#5 0x00#5 offset).trans (ok_congr .bc1f (immOf_encodeI _ _ _ _))
theorem bc1t (offset : Half) : Statement (.bc1t offset) :=
  fun _ => (decode_encodeI 0x11#6 0x08#5 0x01#5 offset).trans (ok_congr .bc1t (immOf_encodeI _ _ _ _))
theorem mfc2 (rt rd : Reg) : Statement (.mfc2 rt rd) :=
  fun _ => (decode_encodeMove 0x12#6 0x00#5 rt rd).trans (canonical_encodeMove 0x12#6 0x00#5 rt rd .mfc2)
theorem cfc2 (rt rd : Reg) : Statement (.cfc2 rt rd) :=
  fun _ => (decode_encodeMove 0x12#6 0x02#5 rt rd).trans (canonical_encodeMove 0x12#6 0x02#5 rt rd .cfc2)
theorem mtc2 (rt rd : Reg) : Statement (.mtc2 rt rd) :=
  fun _ => (decode_encodeMove 0x12#6 0x04#5 rt rd).trans (canonical_encodeMove 0x12#6 0x04#5 rt rd .mtc2)
theorem ctc2 (rt rd : Reg) : Statement (.ctc2 rt rd) :=
  fun _ => (decode_encodeMove 0x12#6 0x06#5 rt rd).trans (canonical_encodeMove 0x12#6 0x06#5 rt rd .ctc2)
theorem bc2f (offset : Half) : Statement (.bc2f offset) :=
  fun _ => (decode_encodeI 0x12#6 0x08#5 0x00#5 offset).trans (ok_congr .bc2f (immOf_encodeI _ _ _ _))
theorem bc2t (offset : Half) : Statement (.bc2t offset) :=
  fun _ => (decode_encodeI 0x12#6 0x08#5 0x01#5 offset).trans (ok_congr .bc2t (immOf_encodeI _ _ _ _))
theorem mfc3 (rt rd : Reg) : Statement (.mfc3 rt rd) :=
  fun _ => (decode_encodeMove 0x13#6 0x00#5 rt rd).trans (canonical_encodeMove 0x13#6 0x00#5 rt rd .mfc3)
theorem cfc3 (rt rd : Reg) : Statement (.cfc3 rt rd) :=
  fun _ => (decode_encodeMove 0x13#6 0x02#5 rt rd).trans (canonical_encodeMove 0x13#6 0x02#5 rt rd .cfc3)
theorem mtc3 (rt rd : Reg) : Statement (.mtc3 rt rd) :=
  fun _ => (decode_encodeMove 0x13#6 0x04#5 rt rd).trans (canonical_encodeMove 0x13#6 0x04#5 rt rd .mtc3)
theorem ctc3 (rt rd : Reg) : Statement (.ctc3 rt rd) :=
  fun _ => (decode_encodeMove 0x13#6 0x06#5 rt rd).trans (canonical_encodeMove 0x13#6 0x06#5 rt rd .ctc3)
theorem bc3f (offset : Half) : Statement (.bc3f offset) :=
  fun _ => (decode_encodeI 0x13#6 0x08#5 0x00#5 offset).trans (ok_congr .bc3f (immOf_encodeI _ _ _ _))
theorem bc3t (offset : Half) : Statement (.bc3t offset) :=
  fun _ => (decode_encodeI 0x13#6 0x08#5 0x01#5 offset).trans (ok_congr .bc3t (immOf_encodeI _ _ _ _))
theorem tlbr : Statement .tlbr := fun _ => rfl
theorem tlbwi : Statement .tlbwi := fun _ => rfl
theorem tlbwr : Statement .tlbwr := fun _ => rfl
theorem tlbp : Statement .tlbp := fun _ => rfl
theorem rfe : Statement .rfe := fun _ => rfl
theorem cop1 (cofun : BitVec 25) : Statement (.cop1 cofun) :=
  fun _ => (decode_encodeOp 0x11#6 cofun).trans <|
    (decodeCop_op (coOf_encodeOp _ _ _) rfl).trans (ok_congr .cop1 (cofunOf_encodeOp _ _ _))
theorem cop2 (cofun : BitVec 25) : Statement (.cop2 cofun) :=
  fun _ => (decode_encodeOp 0x12#6 cofun).trans <|
    (decodeCop_op (coOf_encodeOp _ _ _) rfl).trans (ok_congr .cop2 (cofunOf_encodeOp _ _ _))
theorem cop3 (cofun : BitVec 25) : Statement (.cop3 cofun) :=
  fun _ => (decode_encodeOp 0x13#6 cofun).trans <|
    (decodeCop_op (coOf_encodeOp _ _ _) rfl).trans (ok_congr .cop3 (cofunOf_encodeOp _ _ _))
theorem reserved (word : Word) : Statement (.reserved word) := fun h => decode_reserved word h

end Sys2Proof.Laws.DecodeEncode
end

