-- ==== Sys2Proof/Tests/Slice0.lean ====
section
/-! SUPPORT. Tests of the model's own: the WellFormed smoke, the words of every constructor written out from
the encodings of spec/, one-step tests from the vectors of 95_test_vectors.md, and, for every statement of
Certificates/Slice0 that has hypotheses, states and operands that meet them. -/

namespace Sys2Proof.Tests

set_option Elab.async false

open Sys2Proof Sys2Proof.Machine

/-! ## States -/

/-- The launch state of 95_test_vectors.md: kernel mode, SR = 0, pc = 0x80010000. -/
def launch : State :=
  { State.reset with pc := 0x80010000#32, npc := 0x80010004#32, cp0 := { resetCp0 with sr := 0#32 } }

/-- The launch state with values in r8 and r9, and 0x55555555 in r10. -/
def regs (a b : Word) : State := ((launch.setX 8#5 a).setX 9#5 b).setX 10#5 0x55555555#32

/-- The state with another status register. -/
def sr (v : Word) (s : State) : State := { s with cp0 := { s.cp0 with sr := v } }

/-- The state with a word stored at a physical address. -/
def word (pa : Nat) (w : Word) (s : State) : State :=
  { s with mem := Memory.writeBytes s.mem (BitVec.ofNat 32 pa) (bytesOfWord w) }

/-- The state with one TLB entry. -/
def entry (i : Fin Config.tlbEntries) (hi lo : Word) (s : State) : State := { s with tlb := s.tlb.set i.val { hi := hi, lo := lo } i.isLt }

/-- The state in a delay slot. -/
def inSlot (s : State) : State := { s with slot := true }

/-- The state right after a load of r9. -/
def after9 (s : State) : State := { s with ld := some 9#5 }

/-- The two data words of the load vectors at 0x80020000, r8 pointing there. -/
def dataState : State := word 0x20000 0x8081FF7F#32 (word 0x20004 0xAABBCCDD#32 (regs 0x80020000#32 0x55555555#32))

/-- The word of the merging vectors at 0x80020000. -/
def mergeState : State := word 0x20000 0xAABBCCDD#32 (regs 0x80020000#32 0x11223344#32)

/-- The meaning of a word in a state. -/
def run (w : Word) (s : State) : Result State :=
  match decode w with
  | .ok i => exec i s
  | .error e => rejectWord s e

/-- A register after the word. -/
def regAfter (r : Reg) (w : Word) (s : State) : Option Word := (nextOf (run w s)).map fun t => t.x r

/-- The word at physical 0x20000 after the word. -/
def memAfter (w : Word) (s : State) : Option Word := (nextOf (run w s)).map fun t => Memory.readWord t.mem 0x20000#32

/-- HI and LO after the word. -/
def hiLoAfter (w : Word) (s : State) : Option (Word × Word) := (nextOf (run w s)).map fun t => (t.hi, t.lo)

/-- The pc of the two steps after the word. -/
def pcsAfter (w : Word) (s : State) : Option (Word × Word) := (nextOf (run w s)).map fun t => (t.pc, t.npc)

/-- Cause, EPC and pc after the word. -/
def trapAfter (w : Word) (s : State) : Option (Word × Word × Word) :=
  (nextOf (run w s)).map fun t => (t.cp0.cause, t.cp0.epc, t.pc)

/-- SR after the word. -/
def srAfter (w : Word) (s : State) : Option Word := (nextOf (run w s)).map fun t => t.cp0.sr

/-! ## WellFormed: every check refuses an ill-formed term -/

theorem test_wf_reserved : (Instr.reserved 0x00000000#32).wf = false := by decide

theorem test_wf_reserved_secondary :
    (Instr.reserved 0x00000020#32).wf = false ∧ (Instr.reserved 0x00000001#32).wf = true := by decide

theorem test_wf_jalr : (Instr.jalr 8#5 8#5).wf = false ∧ (Instr.jalr 0#5 0#5).wf = true := by decide

theorem test_wf_bltzal : (Instr.bltzal 31#5 2#16).wf = false ∧ (Instr.bltzal 30#5 2#16).wf = true := by decide

theorem test_wf_bgezal : (Instr.bgezal 31#5 2#16).wf = false ∧ (Instr.bgezal 0#5 2#16).wf = true := by decide

/-! ## Decoding: a word of every constructor, from the Example lines and the Encoding lines of spec/ -/

/-- 40_load_store.md R141 to R153. -/
theorem test_decode_load_store :
    decode 0x810B0004#32 = .ok (.lb 11#5 8#5 4#16) ∧
    decode 0x910C0004#32 = .ok (.lbu 12#5 8#5 4#16) ∧
    decode 0x850D0006#32 = .ok (.lh 13#5 8#5 6#16) ∧
    decode 0x950D0006#32 = .ok (.lhu 13#5 8#5 6#16) ∧
    decode 0x8D090004#32 = .ok (.lw 9#5 8#5 4#16) ∧
    decode 0x890E0004#32 = .ok (.lwl 14#5 8#5 4#16) ∧
    decode 0x990E0001#32 = .ok (.lwr 14#5 8#5 1#16) ∧
    decode 0xA1090001#32 = .ok (.sb 9#5 8#5 1#16) ∧
    decode 0xA50E0008#32 = .ok (.sh 14#5 8#5 8#16) ∧
    decode 0xAD090000#32 = .ok (.sw 9#5 8#5 0#16) ∧
    decode 0xA909000D#32 = .ok (.swl 9#5 8#5 13#16) ∧
    decode 0xB9090012#32 = .ok (.swr 9#5 8#5 18#16) :=
  ⟨rfl, rfl, rfl, rfl, rfl, rfl, rfl, rfl, rfl, rfl, rfl, rfl⟩

/-- 41_computational_immediate.md R161 to R168. -/
theorem test_decode_immediate :
    decode 0x21090001#32 = .ok (.addi 9#5 8#5 1#16) ∧
    decode 0x2508FFFF#32 = .ok (.addiu 8#5 8#5 65535#16) ∧
    decode 0x2909FFFF#32 = .ok (.slti 9#5 8#5 65535#16) ∧
    decode 0x2D09FFFF#32 = .ok (.sltiu 9#5 8#5 65535#16) ∧
    decode 0x3109FF00#32 = .ok (.andi 9#5 8#5 65280#16) ∧
    decode 0x35293344#32 = .ok (.ori 9#5 9#5 13124#16) ∧
    decode 0x3909FFFF#32 = .ok (.xori 9#5 8#5 65535#16) ∧
    decode 0x3C088002#32 = .ok (.lui 8#5 32770#16) :=
  ⟨rfl, rfl, rfl, rfl, rfl, rfl, rfl, rfl⟩

/-- 42_three_operand_register.md R171 to R180. -/
theorem test_decode_three_operand :
    decode 0x01095020#32 = .ok (.add 10#5 8#5 9#5) ∧
    decode 0x01095021#32 = .ok (.addu 10#5 8#5 9#5) ∧
    decode 0x01095022#32 = .ok (.sub 10#5 8#5 9#5) ∧
    decode 0x01095023#32 = .ok (.subu 10#5 8#5 9#5) ∧
    decode 0x01095024#32 = .ok (.and 10#5 8#5 9#5) ∧
    decode 0x01095025#32 = .ok (.or 10#5 8#5 9#5) ∧
    decode 0x01095026#32 = .ok (.xor 10#5 8#5 9#5) ∧
    decode 0x01095027#32 = .ok (.nor 10#5 8#5 9#5) ∧
    decode 0x0109502A#32 = .ok (.slt 10#5 8#5 9#5) ∧
    decode 0x0109502B#32 = .ok (.sltu 10#5 8#5 9#5) :=
  ⟨rfl, rfl, rfl, rfl, rfl, rfl, rfl, rfl, rfl, rfl⟩

/-- 43_shift.md R186 to R191. -/
theorem test_decode_shift :
    decode 0x00095100#32 = .ok (.sll 10#5 9#5 4#5) ∧
    decode 0x00095102#32 = .ok (.srl 10#5 9#5 4#5) ∧
    decode 0x00095103#32 = .ok (.sra 10#5 9#5 4#5) ∧
    decode 0x01095004#32 = .ok (.sllv 10#5 9#5 8#5) ∧
    decode 0x01095006#32 = .ok (.srlv 10#5 9#5 8#5) ∧
    decode 0x01095007#32 = .ok (.srav 10#5 9#5 8#5) :=
  ⟨rfl, rfl, rfl, rfl, rfl, rfl⟩

/-- 44_multiply_divide.md R195 to R203. -/
theorem test_decode_mult_div :
    decode 0x01090018#32 = .ok (.mult 8#5 9#5) ∧
    decode 0x01090019#32 = .ok (.multu 8#5 9#5) ∧
    decode 0x0109001A#32 = .ok (.div 8#5 9#5) ∧
    decode 0x0109001B#32 = .ok (.divu 8#5 9#5) ∧
    decode 0x00005010#32 = .ok (.mfhi 10#5) ∧
    decode 0x01000011#32 = .ok (.mthi 8#5) ∧
    decode 0x00005012#32 = .ok (.mflo 10#5) ∧
    decode 0x01000013#32 = .ok (.mtlo 8#5) :=
  ⟨rfl, rfl, rfl, rfl, rfl, rfl, rfl, rfl⟩

/-- 45_jump_branch.md R210 to R221. -/
theorem test_decode_jump_branch :
    decode 0x08004008#32 = .ok (.j 0x0004008#26) ∧
    decode 0x0C004008#32 = .ok (.jal 0x0004008#26) ∧
    decode 0x03E00008#32 = .ok (.jr 31#5) ∧
    decode 0x0100F809#32 = .ok (.jalr 8#5 31#5) ∧
    decode 0x11090003#32 = .ok (.beq 8#5 9#5 3#16) ∧
    decode 0x1500FFFD#32 = .ok (.bne 8#5 0#5 65533#16) ∧
    decode 0x19000002#32 = .ok (.blez 8#5 2#16) ∧
    decode 0x1D000002#32 = .ok (.bgtz 8#5 2#16) ∧
    decode 0x05000002#32 = .ok (.bltz 8#5 2#16) ∧
    decode 0x05010002#32 = .ok (.bgez 8#5 2#16) ∧
    decode 0x05100002#32 = .ok (.bltzal 8#5 2#16) ∧
    decode 0x04110002#32 = .ok (.bgezal 0#5 2#16) :=
  ⟨rfl, rfl, rfl, rfl, rfl, rfl, rfl, rfl, rfl, rfl, rfl, rfl⟩

/-- 46_special.md R230, R231, 30_encoding.md R116. -/
theorem test_decode_special :
    decode 0x0000000C#32 = .ok (.syscall 0#20) ∧
    decode 0x0048D14C#32 = .ok (.syscall 74565#20) ∧
    decode 0x0000000D#32 = .ok (.brk 0#20) ∧
    decode 0x70000000#32 = .ok (.reserved 0x70000000#32) :=
  ⟨rfl, rfl, rfl, rfl⟩

/-- 47_coprocessor.md R236 to R246. -/
theorem test_decode_cop2 :
    decode 0xC9010010#32 = .ok (.lwc2 1#5 8#5 16#16) ∧
    decode 0xE9010010#32 = .ok (.swc2 1#5 8#5 16#16) ∧
    decode 0x48880800#32 = .ok (.mtc2 8#5 1#5) ∧
    decode 0x48080800#32 = .ok (.mfc2 8#5 1#5) ∧
    decode 0x48C80800#32 = .ok (.ctc2 8#5 1#5) ∧
    decode 0x48480800#32 = .ok (.cfc2 8#5 1#5) ∧
    decode 0x49000002#32 = .ok (.bc2f 2#16) ∧
    decode 0x49010002#32 = .ok (.bc2t 2#16) ∧
    decode 0x4A000001#32 = .ok (.cop2 1#25) :=
  ⟨rfl, rfl, rfl, rfl, rfl, rfl, rfl, rfl, rfl⟩

/-- 47_coprocessor.md R236 to R246. -/
theorem test_decode_cop1_cop3 :
    decode 0xC5010010#32 = .ok (.lwc1 1#5 8#5 16#16) ∧
    decode 0xE5010010#32 = .ok (.swc1 1#5 8#5 16#16) ∧
    decode 0x44880800#32 = .ok (.mtc1 8#5 1#5) ∧
    decode 0x44080800#32 = .ok (.mfc1 8#5 1#5) ∧
    decode 0x44C80800#32 = .ok (.ctc1 8#5 1#5) ∧
    decode 0x44480800#32 = .ok (.cfc1 8#5 1#5) ∧
    decode 0x45000002#32 = .ok (.bc1f 2#16) ∧
    decode 0x45010002#32 = .ok (.bc1t 2#16) ∧
    decode 0x46000001#32 = .ok (.cop1 1#25) ∧
    decode 0xCD010010#32 = .ok (.lwc3 1#5 8#5 16#16) ∧
    decode 0xED010010#32 = .ok (.swc3 1#5 8#5 16#16) ∧
    decode 0x4C880800#32 = .ok (.mtc3 8#5 1#5) ∧
    decode 0x4C080800#32 = .ok (.mfc3 8#5 1#5) ∧
    decode 0x4CC80800#32 = .ok (.ctc3 8#5 1#5) ∧
    decode 0x4C480800#32 = .ok (.cfc3 8#5 1#5) ∧
    decode 0x4D000002#32 = .ok (.bc3f 2#16) ∧
    decode 0x4D010002#32 = .ok (.bc3t 2#16) ∧
    decode 0x4E000001#32 = .ok (.cop3 1#25) :=
  ⟨rfl, rfl, rfl, rfl, rfl, rfl, rfl, rfl, rfl, rfl, rfl, rfl, rfl, rfl, rfl, rfl, rfl, rfl⟩

/-- 48_cop0.md R250 to R256, 47_coprocessor.md R244 to R246. -/
theorem test_decode_cop0 :
    decode 0x40886000#32 = .ok (.mtc0 8#5 12#5) ∧
    decode 0x401A7000#32 = .ok (.mfc0 26#5 14#5) ∧
    decode 0x42000001#32 = .ok .tlbr ∧
    decode 0x42000002#32 = .ok .tlbwi ∧
    decode 0x42000006#32 = .ok .tlbwr ∧
    decode 0x42000008#32 = .ok .tlbp ∧
    decode 0x42000010#32 = .ok .rfe ∧
    decode 0xC1010010#32 = .ok (.lwc0 1#5 8#5 16#16) ∧
    decode 0xE1010010#32 = .ok (.swc0 1#5 8#5 16#16) ∧
    decode 0x40480800#32 = .ok (.cfc0 8#5 1#5) ∧
    decode 0x40C80800#32 = .ok (.ctc0 8#5 1#5) ∧
    decode 0x41000002#32 = .ok (.bc0f 2#16) ∧
    decode 0x41010002#32 = .ok (.bc0t 2#16) :=
  ⟨rfl, rfl, rfl, rfl, rfl, rfl, rfl, rfl, rfl, rfl, rfl, rfl, rfl⟩

/-- The rejected words of 95_test_vectors.md section 2.10, and an unlisted word of each coprocessor case. -/
theorem test_decode_rejects :
    decode 0x01095061#32 = .error .unusedField ∧ decode 0x04020002#32 = .error .bcondZ ∧
    decode 0x01004009#32 = .error .jalrSameRegister ∧ decode 0x07F10002#32 = .error .linkBranchOn31 ∧
    decode 0x48200000#32 = .error (.copSub 2#2) ∧ decode 0x49020000#32 = .error (.copSub 2#2) ∧
    decode 0x42000003#32 = .error .cop0Function := ⟨rfl, rfl, rfl, rfl, rfl, rfl, rfl⟩

theorem test_decodeTableWord :
    decodeTableWord 32 0x8D090004 = some (.lw 9#5 8#5 4#16) ∧ decodeTableWord 32 0x01095061 = none := ⟨rfl, rfl⟩

/-- Little-endian (20_memory.md R64): the byte at the lowest address is bits 7:0. -/
theorem test_decodeBytes : decodeBytes [0x04#8, 0x00#8, 0x09#8, 0x8D#8] = .ok (.lw 9#5 8#5 4#16) := rfl

/-! ## One step: the vectors of 95_test_vectors.md -/

theorem test_lb :
    regAfter 9#5 0x81090001#32 dataState = some 0xFFFFFFFF#32 ∧
    regAfter 9#5 0x81090000#32 dataState = some 0x0000007F#32 := by decide

theorem test_lbu : regAfter 9#5 0x91090003#32 dataState = some 0x00000080#32 := by decide

theorem test_lh : regAfter 9#5 0x85090002#32 dataState = some 0xFFFF8081#32 := by decide

theorem test_lh_misaligned :
    trapAfter 0x85090001#32 dataState = some (0x10#32, 0x80010000#32, 0x80000080#32) := by decide

theorem test_lhu : regAfter 9#5 0x95090000#32 dataState = some 0x0000FF7F#32 := by decide

theorem test_lhu_misaligned :
    trapAfter 0x95090003#32 dataState = some (0x10#32, 0x80010000#32, 0x80000080#32) := by decide

theorem test_lw :
    regAfter 9#5 0x8D090004#32 dataState = some 0xAABBCCDD#32 ∧
    regAfter 0#5 0x8D000000#32 dataState = some 0x00000000#32 := by decide

theorem test_lw_negative_offset :
    regAfter 9#5 0x8D09FFF0#32 (dataState.setX 8#5 0x80020014#32) = some 0xAABBCCDD#32 := by decide

theorem test_lwl :
    regAfter 9#5 0x89090000#32 mergeState = some 0xDD223344#32 ∧
    regAfter 9#5 0x89090002#32 mergeState = some 0xBBCCDD44#32 := by decide

theorem test_lwr :
    regAfter 9#5 0x99090001#32 mergeState = some 0x11AABBCC#32 ∧
    regAfter 9#5 0x99090003#32 mergeState = some 0x112233AA#32 := by decide

/-- The merge operand may be in its load delay (70_reset_and_hazards.md R331). -/
theorem test_lwl_after_lwr : regAfter 9#5 0x89090001#32 (after9 mergeState) = some 0xCCDD3344#32 := by decide

theorem test_sb :
    memAfter 0xA1090001#32 (word 0x20000 0xAABBCCDD#32 (regs 0x80020000#32 0x12345678#32)) = some 0xAABB78DD#32 := by decide

theorem test_sh :
    memAfter 0xA5090002#32 (word 0x20000 0xAABBCCDD#32 (regs 0x80020000#32 0x12345678#32)) = some 0x5678CCDD#32 := by decide

theorem test_sh_misaligned :
    trapAfter 0xA5090001#32 (word 0x20000 0xAABBCCDD#32 (regs 0x80020000#32 0x12345678#32)) =
      some (0x14#32, 0x80010000#32, 0x80000080#32) := by decide

theorem test_sw :
    memAfter 0xAD090000#32 (word 0x20000 0xAABBCCDD#32 (regs 0x80020000#32 0x12345678#32)) = some 0x12345678#32 := by decide

theorem test_swl :
    memAfter 0xA9090000#32 mergeState = some 0xAABBCC11#32 ∧
    memAfter 0xA9090002#32 mergeState = some 0xAA112233#32 := by decide

theorem test_swr :
    memAfter 0xB9090001#32 mergeState = some 0x223344DD#32 ∧
    memAfter 0xB9090003#32 mergeState = some 0x44BBCCDD#32 := by decide

theorem test_addi : regAfter 9#5 0x21097FFF#32 (regs 0x7FFF8000#32 0x55555555#32) = some 0x7FFFFFFF#32 := by decide

theorem test_addi_overflow :
    trapAfter 0x2109FFFF#32 (regs 0x80000000#32 0x55555555#32) = some (0x30#32, 0x80010000#32, 0x80000080#32) ∧
    regAfter 9#5 0x21090001#32 (regs 0x7FFFFFFF#32 0x55555555#32) = some 0x55555555#32 := by decide

theorem test_addiu :
    regAfter 9#5 0x25090001#32 (regs 0x7FFFFFFF#32 0x55555555#32) = some 0x80000000#32 ∧
    regAfter 9#5 0x25098000#32 (regs 0x00010000#32 0x55555555#32) = some 0x00008000#32 := by decide

theorem test_slti :
    regAfter 9#5 0x29097FFF#32 (regs 0x80000000#32 0x55555555#32) = some 0x00000001#32 ∧
    regAfter 9#5 0x29098000#32 (regs 0x7FFFFFFF#32 0x55555555#32) = some 0x00000000#32 := by decide

theorem test_sltiu :
    regAfter 9#5 0x2D09FFFF#32 (regs 0x00000000#32 0x55555555#32) = some 0x00000001#32 ∧
    regAfter 9#5 0x2D098000#32 (regs 0xFFFF7FFF#32 0x55555555#32) = some 0x00000001#32 := by decide

theorem test_andi : regAfter 9#5 0x31098000#32 (regs 0xFFFFFFFF#32 0x55555555#32) = some 0x00008000#32 := by decide

theorem test_ori : regAfter 9#5 0x35098000#32 (regs 0x00000000#32 0x55555555#32) = some 0x00008000#32 := by decide

theorem test_xori : regAfter 9#5 0x39095678#32 (regs 0x12345678#32 0x55555555#32) = some 0x12340000#32 := by decide

theorem test_lui : regAfter 9#5 0x3C098000#32 (regs 0x00000000#32 0x55555555#32) = some 0x80000000#32 := by decide

theorem test_add : regAfter 10#5 0x01095020#32 (regs 0xFFFFFFFF#32 0x00000001#32) = some 0x00000000#32 := by decide

theorem test_add_overflow :
    trapAfter 0x01095020#32 (regs 0x80000000#32 0x80000000#32) = some (0x30#32, 0x80010000#32, 0x80000080#32) ∧
    trapAfter 0x01090020#32 (regs 0x7FFFFFFF#32 0x00000001#32) = some (0x30#32, 0x80010000#32, 0x80000080#32) := by decide

theorem test_addu :
    regAfter 10#5 0x01095021#32 (regs 0x7FFFFFFF#32 0x00000001#32) = some 0x80000000#32 ∧
    regAfter 8#5 0x01084021#32 (regs 0x40000001#32 0x55555555#32) = some 0x80000002#32 := by decide

theorem test_sub : regAfter 10#5 0x01095022#32 (regs 0x00000005#32 0x00000007#32) = some 0xFFFFFFFE#32 := by decide

theorem test_sub_overflow :
    trapAfter 0x01095022#32 (regs 0x00000000#32 0x80000000#32) = some (0x30#32, 0x80010000#32, 0x80000080#32) := by decide

theorem test_subu : regAfter 10#5 0x01095023#32 (regs 0x80000000#32 0x00000001#32) = some 0x7FFFFFFF#32 := by decide

theorem test_slt : regAfter 10#5 0x0109502A#32 (regs 0x80000000#32 0x7FFFFFFF#32) = some 0x00000001#32 := by decide

theorem test_sltu : regAfter 10#5 0x0109502B#32 (regs 0x80000000#32 0x7FFFFFFF#32) = some 0x00000000#32 := by decide

theorem test_and : regAfter 10#5 0x01095024#32 (regs 0xF0F0F0F0#32 0xFF00FF00#32) = some 0xF000F000#32 := by decide

theorem test_or : regAfter 10#5 0x01095025#32 (regs 0xF0F0F0F0#32 0xFF00FF00#32) = some 0xFFF0FFF0#32 := by decide

theorem test_xor : regAfter 10#5 0x01095026#32 (regs 0xF0F0F0F0#32 0xFF00FF00#32) = some 0x0FF00FF0#32 := by decide

theorem test_nor : regAfter 10#5 0x01095027#32 (regs 0xF0F0F0F0#32 0xFF00FF00#32) = some 0x000F000F#32 := by decide

theorem test_sll : regAfter 10#5 0x00095040#32 (regs 0x0#32 0x80000001#32) = some 0x00000002#32 := by decide

theorem test_srl : regAfter 10#5 0x000957C2#32 (regs 0x0#32 0x80000000#32) = some 0x00000001#32 := by decide

theorem test_sra : regAfter 10#5 0x00095043#32 (regs 0x0#32 0x80000000#32) = some 0xC0000000#32 := by decide

theorem test_sllv :
    regAfter 10#5 0x01095004#32 (regs 0xFFFFFFFF#32 0x00000001#32) = some 0x80000000#32 ∧
    regAfter 10#5 0x01095004#32 (regs 0x00000020#32 0x00000001#32) = some 0x00000001#32 := by decide

theorem test_srlv : regAfter 10#5 0x01095006#32 (regs 0x0000003F#32 0x80000000#32) = some 0x00000001#32 := by decide

theorem test_srav : regAfter 10#5 0x01095007#32 (regs 0x00000004#32 0xF0000000#32) = some 0xFF000000#32 := by decide

theorem test_mult :
    hiLoAfter 0x01090018#32 (regs 0x80000000#32 0x7FFFFFFF#32) = some (0xC0000000#32, 0x80000000#32) := by decide

theorem test_multu :
    hiLoAfter 0x01090019#32 (regs 0xFFFFFFFF#32 0xFFFFFFFF#32) = some (0xFFFFFFFE#32, 0x00000001#32) := by decide

theorem test_div :
    hiLoAfter 0x0109001A#32 (regs 0xFFFFFFF9#32 0x00000002#32) = some (0xFFFFFFFF#32, 0xFFFFFFFD#32) ∧
    hiLoAfter 0x0109001A#32 (regs 0x00000007#32 0xFFFFFFFE#32) = some (0x00000001#32, 0xFFFFFFFD#32) := by decide

theorem test_divu :
    hiLoAfter 0x0109001B#32 (regs 0xFFFFFFF9#32 0xFFFFFFFE#32) = some (0xFFFFFFF9#32, 0x00000000#32) := by decide

/-- A state with HI and LO set, r8 = 0xCAFEBABE. -/
def hiLoState : State := { regs 0xCAFEBABE#32 0#32 with hi := 0x11111111#32, lo := 0x22222222#32 }

theorem test_mfhi : regAfter 10#5 0x00005010#32 hiLoState = some 0x11111111#32 := by decide

theorem test_mflo : regAfter 10#5 0x00005012#32 hiLoState = some 0x22222222#32 := by decide

theorem test_mthi : hiLoAfter 0x01000011#32 hiLoState = some (0xCAFEBABE#32, 0x22222222#32) := by decide

theorem test_mtlo : hiLoAfter 0x01000013#32 hiLoState = some (0x11111111#32, 0xCAFEBABE#32) := by decide

theorem test_beq :
    pcsAfter 0x11090003#32 (regs 0x5#32 0x5#32) = some (0x80010004#32, 0x80010010#32) ∧
    pcsAfter 0x11090003#32 (regs 0x5#32 0x6#32) = some (0x80010004#32, 0x80010008#32) := by decide

theorem test_bne :
    pcsAfter 0x1500FFFD#32 (regs 0x1#32 0x55555555#32) = some (0x80010004#32, 0x8000FFF8#32) ∧
    pcsAfter 0x1500FFFD#32 (regs 0x0#32 0x55555555#32) = some (0x80010004#32, 0x80010008#32) := by decide

theorem test_blez :
    pcsAfter 0x19000002#32 (regs 0x0#32 0x55555555#32) = some (0x80010004#32, 0x8001000C#32) ∧
    pcsAfter 0x19000002#32 (regs 0x1#32 0x55555555#32) = some (0x80010004#32, 0x80010008#32) := by decide

theorem test_bgtz :
    pcsAfter 0x1D000002#32 (regs 0x0#32 0x55555555#32) = some (0x80010004#32, 0x80010008#32) ∧
    pcsAfter 0x1D000002#32 (regs 0x1#32 0x55555555#32) = some (0x80010004#32, 0x8001000C#32) := by decide

theorem test_bltz :
    pcsAfter 0x05000002#32 (regs 0x0#32 0x55555555#32) = some (0x80010004#32, 0x80010008#32) ∧
    pcsAfter 0x05000002#32 (regs 0x80000000#32 0x55555555#32) = some (0x80010004#32, 0x8001000C#32) := by decide

theorem test_bgez :
    pcsAfter 0x05010002#32 (regs 0x0#32 0x55555555#32) = some (0x80010004#32, 0x8001000C#32) ∧
    pcsAfter 0x05010002#32 (regs 0xFFFFFFFF#32 0x55555555#32) = some (0x80010004#32, 0x80010008#32) := by decide

theorem test_bltzal :
    pcsAfter 0x05100002#32 (regs 0xFFFFFFFF#32 0x55555555#32) = some (0x80010004#32, 0x8001000C#32) ∧
    regAfter 31#5 0x05100002#32 (regs 0x0#32 0x55555555#32) = some 0x80010008#32 := by decide

theorem test_bgezal :
    pcsAfter 0x05110002#32 (regs 0xFFFFFFFF#32 0x55555555#32) = some (0x80010004#32, 0x80010008#32) ∧
    regAfter 31#5 0x05110002#32 (regs 0xFFFFFFFF#32 0x55555555#32) = some 0x80010008#32 := by decide

/-- The launch state with the program counter at the last word of a 256 MB region. -/
def regionEnd : State := { launch with pc := 0x8FFFFFFC#32, npc := 0x90000000#32 }

theorem test_j :
    pcsAfter 0x08004008#32 (regs 0x0#32 0x55555555#32) = some (0x80010004#32, 0x80010020#32) ∧
    pcsAfter 0x08004008#32 regionEnd = some (0x90000000#32, 0x90010020#32) := by decide

theorem test_jal :
    pcsAfter 0x0C004008#32 (regs 0x0#32 0x55555555#32) = some (0x80010004#32, 0x80010020#32) ∧
    regAfter 31#5 0x0C004008#32 (regs 0x0#32 0x55555555#32) = some 0x80010008#32 := by decide

theorem test_jr :
    pcsAfter 0x01000008#32 (regs 0x80012340#32 0x55555555#32) = some (0x80010004#32, 0x80012340#32) := by decide

theorem test_jalr :
    pcsAfter 0x01005009#32 (regs 0x80012340#32 0x55555555#32) = some (0x80010004#32, 0x80012340#32) ∧
    regAfter 10#5 0x01005009#32 (regs 0x80012340#32 0x55555555#32) = some 0x80010008#32 := by decide

theorem test_syscall :
    trapAfter 0x0000000C#32 launch = some (0x20#32, 0x80010000#32, 0x80000080#32) ∧
    trapAfter 0x0048D14C#32 launch = some (0x20#32, 0x80010000#32, 0x80000080#32) := by decide

theorem test_syscall_boot :
    trapAfter 0x0000000C#32 (sr 0x00400001#32 launch) = some (0x20#32, 0x80010000#32, 0xBFC00180#32) ∧
    srAfter 0x0000000C#32 (sr 0x00400001#32 launch) = some 0x00400004#32 := by decide

theorem test_break : trapAfter 0x0000000D#32 launch = some (0x24#32, 0x80010000#32, 0x80000080#32) := by decide

theorem test_break_in_slot :
    trapAfter 0x0000000D#32 { inSlot launch with pc := 0x80010004#32 } =
      some (0x80000024#32, 0x80010000#32, 0x80000080#32) := by decide

theorem test_reserved :
    trapAfter 0xBC001234#32 launch = some (0x28#32, 0x80010000#32, 0x80000080#32) ∧
    trapAfter 0x03FFFFED#32 launch = some (0x28#32, 0x80010000#32, 0x80000080#32) := by decide

theorem test_cop2_unusable :
    trapAfter 0xC9010010#32 launch = some (0x2000002C#32, 0x80010000#32, 0x80000080#32) ∧
    trapAfter 0x4A000001#32 launch = some (0x2000002C#32, 0x80010000#32, 0x80000080#32) := by decide

theorem test_cop1_cop3_unusable :
    trapAfter 0x44000000#32 launch = some (0x1000002C#32, 0x80010000#32, 0x80000080#32) ∧
    trapAfter 0xE4000000#32 launch = some (0x1000002C#32, 0x80010000#32, 0x80000080#32) ∧
    trapAfter 0xCC000000#32 launch = some (0x3000002C#32, 0x80010000#32, 0x80000080#32) := by decide

/-- U8. -/
theorem test_cop1_usable :
    faultOf (run 0x44000000#32 (sr 0x20000000#32 launch)) = some .absentCoprocessor := by decide

/-- U9. -/
theorem test_cfc0 : refusalOf (run 0x40480800#32 launch) = some .noCop0Path := by decide

/-- U28. -/
theorem test_bc0f : refusalOf (run 0x41000002#32 launch) = some .cop0Condition := by decide

theorem test_mfc0_user :
    trapAfter 0x40086000#32 (sr 0x0000FF03#32 launch) = some (0x2C#32, 0x80010000#32, 0x80000080#32) ∧
    srAfter 0x40086000#32 (sr 0x0000FF03#32 launch) = some 0x0000FF0C#32 := by decide

/-- The launch state with EPC set. -/
def epcState : State := { launch with cp0 := { launch.cp0 with epc := 0x8001000C#32 } }

theorem test_mfc0 :
    regAfter 26#5 0x401A7000#32 epcState = some 0x8001000C#32 ∧
    (nextOf (run 0x401A7000#32 epcState)).map (fun t => t.ld) = some (some 26#5) := by decide

theorem test_mtc0_sr :
    srAfter 0x40886000#32 (sr 0x00400000#32 (regs 0xFDFDFFFF#32 0#32)) = some 0xF045FF3F#32 := by decide

theorem test_mtc0_cause :
    (nextOf (run 0x40886800#32 (regs 0xFFFFFFFF#32 0#32))).map (fun t => t.cp0.cause) = some 0x300#32 := by decide

theorem test_rfe :
    srAfter 0x42000010#32 (sr 0x0000002D#32 launch) = some 0x0000002B#32 ∧
    srAfter 0x42000010#32 (sr 0x10400033#32 launch) = some 0x1040003C#32 := by decide

theorem test_exception_stack :
    srAfter 0x0000000C#32 (sr 0x0000002D#32 launch) = some 0x00000034#32 ∧
    srAfter 0x0000000C#32 (sr 0x0000003F#32 launch) = some 0x0000003C#32 := by decide

/-- Index 3, and EntryHi and EntryLo of the TLB vectors. -/
def tlbState : State :=
  { launch with
    cp0 := { launch.cp0 with index := 0x300#32, entryHi := 0x00400040#32, entryLo := 0x00123600#32 } }

/-- The launch state with entry 3 of the TLB vectors and EntryHi as given. -/
def mapped (hi : Word) : State :=
  entry 3 0x00400040#32 0x00123600#32 { launch with cp0 := { launch.cp0 with index := 0x300#32, entryHi := hi } }

theorem test_tlbwi :
    (nextOf (run 0x42000002#32 tlbState)).map (fun t => t.tlb.get 3) =
      some { hi := 0x00400040#32, lo := 0x00123600#32 } := by decide

theorem test_tlbr :
    (nextOf (run 0x42000001#32 (mapped 0#32))).map (fun t => (t.cp0.entryHi, t.cp0.entryLo)) =
      some (0x00400040#32, 0x00123600#32) := by decide

theorem test_tlbp :
    (nextOf (run 0x42000008#32 (mapped 0x00400040#32))).map (fun t => t.cp0.index) = some 0x300#32 := by decide

theorem test_translate_hit :
    translateAddress (mapped 0x40#32) 0x00400ABC#32 .load = .done { pa := 0x00123ABC#32, cacheable := true } := by decide

theorem test_translate_mod :
    translateAddress (entry 3 0x00400040#32 0x00123200#32 (mapped 0x40#32)) 0x00400ABC#32 .store =
      .trap (.mod 0x00400ABC#32) := by decide

theorem test_translate_invalid :
    translateAddress (entry 3 0x00400040#32 0x00123400#32 (mapped 0x40#32)) 0x00400ABC#32 .load =
      .trap (.tlbl 0x00400ABC#32 false) := by decide

theorem test_translate_miss :
    translateAddress launch 0x00400ABC#32 .load = .trap (.tlbl 0x00400ABC#32 true) ∧
    translateAddress launch 0xC0000000#32 .load = .trap (.tlbl 0xC0000000#32 false) := by decide

theorem test_translate_user :
    translateAddress (sr 2#32 launch) 0x80020000#32 .load = .trap (.adel 0x80020000#32) := by decide

theorem test_refill_entry :
    (fun t : State => (t.cp0.context, t.cp0.entryHi, t.pc))
        ((sr 0x00400000#32 launch).takeException (.tlbl 0x00400ABC#32 true)) =
      (0x00001000#32, 0x00400000#32, 0xBFC00100#32) := by decide

theorem test_lw_load_delay :
    faultOf (run 0x01295021#32 (after9 launch)) = some .loadDelay ∧
    regAfter 9#5 0x014B4821#32 (after9 launch) = some 0x00000000#32 := by decide

theorem test_hi_lo_hazard :
    faultOf (run 0x01090018#32 { launch with loAge := 2 }) = some .hiLoHazard ∧
    faultOf (run 0x01090018#32 { launch with loAge := 1 }) = some .hiLoHazard := by decide

theorem test_jump_in_slot : faultOf (run 0x08004008#32 (inSlot launch)) = some .branchInDelaySlot := by decide

theorem test_interrupt :
    (nextOf (step { sr 0x401#32 launch with pc := 0x80010008#32, intLines := [1#6] })).map
        (fun t => (t.cp0.epc, t.cp0.cause, t.cp0.sr, t.pc)) =
      some (0x80010008#32, 0x400#32, 0x404#32, 0x80000080#32) := by decide

/-- The launch state of the vectors is one (70_reset_and_hazards.md R324): its TLB is that of reset, whose entries
hold 64 different pages. -/
theorem test_launch : LaunchState launch where
  pc_aligned := by decide
  npc_next := by decide
  slot_clear := rfl
  ld_none := rfl
  hi_age_zero := rfl
  lo_age_zero := rfl
  sr_clear := by decide
  written_empty := rfl
  tlb_unique := fun _ _ i j hi hj =>
    (by decide +kernel : ∀ i j : Fin Config.tlbEntries,
      (launch.tlb.get i).hi.extractLsb' 12 20 = (launch.tlb.get j).hi.extractLsb' 12 20 → i = j)
      i j (hi.1.trans hj.1.symm)

/-- The first step after reset runs the placed ADDIU r8, r0, 10. -/
theorem test_step_reset :
    (nextOf (step (State.reset.withFetchWord 32 0x2408000A))).map (fun t => (t.x 8#5, t.pc)) =
      some (0xA#32, 0xBFC00004#32) := by decide
/-! ## Witnesses: states and operands that meet the hypotheses of the statements

Each theorem witness_<Name> is about Obligations.<Name>. -/

/-- The launch state with a word at its pc, in kseg0. -/
def fetched (w : Word) : State := word 0x10000 w launch

/-- A user-mode state whose pc, in the mapped page 0x00400, holds a word; the page is writable. -/
def userAt (w : Word) : State :=
  word 0x123100 w { sr 2#32 (mapped 0x40#32) with pc := 0x00400100#32, npc := 0x00400104#32 }

/-- Two entries for the page 0x00400. -/
def twoHits : State := entry 5 0x00400040#32 0x00456600#32 (mapped 0x40#32)

/-- The platform with bus errors for every kind of access at the first eight words from 0x20000 on. -/
def busErrors : Platform :=
  { resetPlatform with
    fetchErrors := [{ base := 0x20000, size := 32 }], loadErrors := [{ base := 0x20000, size := 32 }],
    storeErrors := [{ base := 0x20000, size := 32 }] }

/-- The platform with nothing at 0x20000 and read-only memory at 0x30000. -/
def holes : Platform :=
  { resetPlatform with
    populated := [{ base := 0, size := 0x20000 }, { base := 0x30000, size := 0x10000 }],
    readOnly := [{ base := 0x30000, size := 0x1000 }] }

/-- The data state on another platform. -/
def on (p : Platform) (s : State) : State := { s with platform := p }

/-- The bytes at a physical address decode to the instruction. -/
def holds (s : State) (pa : Word) (r : Except DecodeError Instr) : Prop :=
  decodeBytes [Memory.readByte s.mem pa, Memory.readByte s.mem (pa + 1#32), Memory.readByte s.mem (pa + 2#32),
    Memory.readByte s.mem (pa + 3#32)] = r

theorem witness_DecodeOfEncode :
    (Instr.lwl 31#5 31#5 0xFFFF#16).wf = true ∧ (Instr.jalr 0#5 0#5).wf = true ∧ (Instr.bltzal 30#5 0#16).wf = true ∧
    (Instr.reserved 0xFFFFFFFF#32).wf = true := by decide +kernel

theorem witness_EncodeOfDecode : decode 0xFC000000#32 = .ok (.reserved 0xFC000000#32) ∧
    decode 0x00000009#32 = .ok (.jalr 0#5 0#5) := ⟨rfl, rfl⟩

/-- Words of the first and last cells of each range. -/
def reservedWords : List Word :=
  [0x50000000#32, 0x7C000000#32, 0x9C000000#32, 0xB0000000#32, 0xB4000000#32, 0xBC000000#32, 0xD0000000#32,
   0xDC000000#32, 0xF0000000#32, 0xFC000000#32, 0x01#32, 0x05#32, 0x0A#32, 0x0B#32, 0x0E#32, 0x0F#32, 0x14#32, 0x17#32,
   0x1C#32, 0x1F#32, 0x28#32, 0x29#32, 0x2C#32, 0x3F#32]

theorem witness_ReservedCellsRaiseRI :
    reservedWords.all (fun w => decide
      (let op := (w.extractLsb' 26 6).toNat
       let funct := (w.extractLsb' 0 6).toNat
       (0x14 ≤ op ∧ op ≤ 0x1F) ∨ op = 0x27 ∨ op = 0x2C ∨ op = 0x2D ∨ op = 0x2F ∨ (0x34 ≤ op ∧ op ≤ 0x37) ∨ 0x3C ≤ op ∨
       (op = 0 ∧ (funct = 0x01 ∨ funct = 0x05 ∨ funct = 0x0A ∨ funct = 0x0B ∨ funct = 0x0E ∨ funct = 0x0F ∨
         (0x14 ≤ funct ∧ funct ≤ 0x17) ∨ (0x1C ≤ funct ∧ funct ≤ 0x1F) ∨ funct = 0x28 ∨ funct = 0x29 ∨
         0x2C ≤ funct)))) = true := by decide +kernel

theorem witness_UnlistedWordsRejected_maps :
    [0x04020000#32, 0x040F0000#32, 0x04120000#32, 0x041F0000#32].all (fun w => decide
      (opOf w = 0x01#6 ∧ rtOf w ∉ [0x00#5, 0x01#5, 0x10#5, 0x11#5])) = true ∧
    [0x40200000#32, 0x44600000#32, 0x48E00000#32, 0x4DE00000#32, 0x41020000#32, 0x4D1F0000#32].all (fun w => decide
      ((∃ z : BitVec 2, opOf w = 0b0100#4 ++ z) ∧ coOf w = 0#1 ∧
        (rsOf w ∉ [0x00#5, 0x02#5, 0x04#5, 0x06#5, 0x08#5] ∨ (rsOf w = 0x08#5 ∧ rtOf w ∉ [0x00#5, 0x01#5])))) = true ∧
    [0x42000000#32, 0x4200003F#32].all (fun w => decide
      (opOf w = 0x10#6 ∧ coOf w = 1#1 ∧ functOf w ∉ [0x01#6, 0x02#6, 0x06#6, 0x08#6, 0x10#6])) = true := by decide +kernel

theorem witness_UnlistedWordsRejected_special :
    (opOf 0x00200000#32 = 0x00#6 ∧ functOf 0x00200000#32 ∈ [0x00#6, 0x02#6, 0x03#6] ∧ rsOf 0x00200000#32 ≠ 0#5) ∧
    (functOf 0x01095061#32 ∈ [0x20#6, 0x21#6] ∧ shamtOf 0x01095061#32 ≠ 0#5) ∧
    (functOf 0x00010008#32 = 0x08#6 ∧ rtOf 0x00010008#32 ≠ 0#5) ∧
    (functOf 0x00000849#32 = 0x09#6 ∧ shamtOf 0x00000849#32 ≠ 0#5) ∧
    (functOf 0x01004009#32 = 0x09#6 ∧ rtOf 0x01004009#32 = 0#5 ∧ shamtOf 0x01004009#32 = 0#5 ∧
      rsOf 0x01004009#32 = rdOf 0x01004009#32 ∧ rdOf 0x01004009#32 ≠ 0#5) ∧
    (functOf 0x00200010#32 = 0x10#6 ∧ rsOf 0x00200010#32 ≠ 0#5) ∧
    (functOf 0x0000081B#32 = 0x1B#6 ∧ rdOf 0x0000081B#32 ≠ 0#5) := by decide +kernel

theorem witness_UnlistedWordsRejected_other :
    (opOf 0x07F10002#32 = 0x01#6 ∧ rtOf 0x07F10002#32 ∈ [0x10#5, 0x11#5] ∧ rsOf 0x07F10002#32 = 31#5) ∧
    (opOf 0x1C010000#32 ∈ [0x06#6, 0x07#6] ∧ rtOf 0x1C010000#32 ≠ 0#5) ∧
    (opOf 0x3C200000#32 = 0x0F#6 ∧ rsOf 0x3C200000#32 ≠ 0#5) ∧
    (opOf 0x4CC00001#32 ∈ [0x10#6, 0x11#6, 0x12#6, 0x13#6] ∧ rsOf 0x4CC00001#32 ∈ [0x00#5, 0x02#5, 0x04#5, 0x06#5] ∧
      (0x4CC00001#32).extractLsb' 0 11 ≠ 0#11) ∧
    (opOf 0x43000010#32 = 0x10#6 ∧ coOf 0x43000010#32 = 1#1 ∧
      functOf 0x43000010#32 ∈ [0x01#6, 0x02#6, 0x06#6, 0x08#6, 0x10#6] ∧ (0x43000010#32).extractLsb' 6 19 ≠ 0#19) := by
  decide +kernel

theorem witness_StepRunsDecoded :
    (NoInterrupt (fetched 0x2408000A#32) ∧ FetchReady (fetched 0x2408000A#32) 0x10000#32 ∧
      holds (fetched 0x2408000A#32) 0x10000#32 (.ok (.addiu 8#5 0#5 10#16))) ∧
    (NoInterrupt (userAt 0x0000000C#32) ∧ FetchReady (userAt 0x0000000C#32) 0x123100#32 ∧
      holds (userAt 0x0000000C#32) 0x123100#32 (.ok (.syscall 0#20))) :=
  ⟨⟨rfl, ⟨by decide +kernel, ⟨_, rfl, by decide +kernel⟩, rfl, rfl⟩, rfl⟩, ⟨rfl, ⟨by decide +kernel, ⟨_, rfl, by decide +kernel⟩, rfl, rfl⟩, rfl⟩⟩

theorem witness_StepOfRejectedWord_names :
    holds (fetched 0x01095061#32) 0x10000#32 (.error .unusedField) ∧
    holds (fetched 0x01004009#32) 0x10000#32 (.error .jalrSameRegister) ∧
    holds (fetched 0x07F10002#32) 0x10000#32 (.error .linkBranchOn31) ∧
    holds (fetched 0x04020002#32) 0x10000#32 (.error .bcondZ) ∧
    NoInterrupt (fetched 0x04020002#32) ∧ FetchReady (fetched 0x04020002#32) 0x10000#32 :=
  ⟨rfl, rfl, rfl, rfl, rfl, by decide +kernel, ⟨_, rfl, by decide +kernel⟩, rfl, rfl⟩

theorem witness_StepOfRejectedWord_coprocessors :
    (holds (fetched 0x48200000#32) 0x10000#32 (.error (.copSub 2#2)) ∧ (fetched 0x48200000#32).usable 2#2 = false) ∧
    (holds (sr 0x40000000#32 (fetched 0x48200000#32)) 0x10000#32 (.error (.copSub 2#2)) ∧
      (sr 0x40000000#32 (fetched 0x48200000#32)).usable 2#2 = true) ∧
    (holds (fetched 0x40200000#32) 0x10000#32 (.error (.copSub 0#2)) ∧ (fetched 0x40200000#32).usable 0#2 = true) ∧
    (holds (sr 0x20000000#32 (fetched 0x44200000#32)) 0x10000#32 (.error (.copSub 1#2)) ∧
      (sr 0x20000000#32 (fetched 0x44200000#32)).usable 1#2 = true) ∧
    (holds (userAt 0x42000003#32) 0x123100#32 (.error .cop0Function) ∧ (userAt 0x42000003#32).usable 0#2 = false ∧
      NoInterrupt (userAt 0x42000003#32) ∧ FetchReady (userAt 0x42000003#32) 0x123100#32) ∧
    (holds (fetched 0x42000003#32) 0x10000#32 (.error .cop0Function) ∧ (fetched 0x42000003#32).usable 0#2 = true) :=
  ⟨⟨rfl, rfl⟩, ⟨rfl, rfl⟩, ⟨rfl, rfl⟩, ⟨rfl, rfl⟩, ⟨rfl, rfl, rfl, by decide +kernel, ⟨_, rfl, by decide +kernel⟩, rfl, rfl⟩, rfl, rfl⟩

/-- A state whose interrupt line 5 is up, and one whose software request 0 is up, each with its mask. -/
theorem witness_InterruptTaken :
    (let s := { sr 0x8001#32 launch with intLines := [0x20#6] }
     s.cp0.sr.getLsbD 0 = true ∧ s.beginStep.cp0.cause.getLsbD (8 + 7) = true ∧ s.cp0.sr.getLsbD (8 + 7) = true) ∧
    (let s := { launch with cp0 := { launch.cp0 with sr := 0x101#32, cause := 0x100#32 } }
     s.cp0.sr.getLsbD 0 = true ∧ s.beginStep.cp0.cause.getLsbD (8 + 0) = true ∧ s.cp0.sr.getLsbD (8 + 0) = true) ∧
    launch.cp0.sr.getLsbD 0 = false := ⟨⟨rfl, rfl, rfl⟩, ⟨rfl, rfl, rfl⟩, rfl⟩

theorem witness_FetchDoesNotReach :
    (let s := { launch with pc := 0x80010001#32 }; NoInterrupt s ∧ s.pc.toNat % 4 ≠ 0) ∧
    (let s := { launch with pc := 0x80010003#32 }; NoInterrupt s ∧ s.pc.toNat % 4 ≠ 0) ∧
    (let s := sr 2#32 launch; NoInterrupt s ∧ s.pc.toNat % 4 = 0 ∧ translateAddress s s.pc .fetch = .trap (.adel s.pc)) ∧
    (let s := { twoHits with pc := 0x00400100#32 }; s.pc.toNat % 4 = 0 ∧ translateAddress s s.pc .fetch = .stop .multipleTlbMatch) ∧
    (let s := on busErrors { launch with pc := 0x80020000#32 }
     s.pc.toNat % 4 = 0 ∧ translateAddress s s.pc .fetch = .done { pa := 0x20000#32, cacheable := true } ∧
       s.platform.busError 0x20000#32 .fetch = true) ∧
    (let s := on holes { launch with pc := 0x80020000#32 }
     translateAddress s s.pc .fetch = .done { pa := 0x20000#32, cacheable := true } ∧
       s.platform.busError 0x20000#32 .fetch = false ∧ s.platform.populatedAt 0x20000#32 4 = false) ∧
    (let s := { launch with written := [0x10000] }
     translateAddress s s.pc .fetch = .done { pa := 0x10000#32, cacheable := true } ∧
       s.platform.busError 0x10000#32 .fetch = false ∧ s.platform.populatedAt 0x10000#32 4 = true ∧
       (wordAddress 0x10000#32).toNat ∈ s.written) := by
  refine ⟨⟨rfl, by decide +kernel⟩, ⟨rfl, by decide +kernel⟩, ⟨rfl, by decide +kernel, rfl⟩, ⟨by decide +kernel, by decide +kernel⟩,
    ⟨by decide +kernel, rfl, rfl⟩, ⟨rfl, rfl, rfl⟩, ⟨rfl, rfl, rfl, by decide +kernel⟩⟩

theorem witness_PlacedWordRunsAfterReset : (Instr.tlbwr).wf = true ∧ (Instr.reserved 0x70000000#32).wf = true := by decide +kernel

theorem witness_ExceptionEntry :
    (inSlot launch).slot = true ∧ launch.slot = false ∧ (Exc.mod 4#32) ∈ [.adel 4#32, .ades 4#32, .tlbl 4#32 true,
      .tlbs 4#32 true, .mod 4#32] ∧ (∀ va r, Exc.sys ∉ [.adel va, .ades va, .tlbl va r, .tlbs va r, .mod va]) ∧
    (∀ va r, Exc.adel 4#32 ∉ [.tlbl va r, .tlbs va r, .mod va]) := by
  refine ⟨rfl, rfl, by decide +kernel, ?_, ?_⟩ <;> intro va r <;> simp

theorem witness_ExceptionVectors :
    translateAddress launch 0x7FFFFFFC#32 .fetch = .trap (.tlbl 0x7FFFFFFC#32 true) ∧
    translateAddress launch 0x00400ABC#32 .store = .trap (.tlbs 0x00400ABC#32 true) ∧
    translateAddress launch 0xC0000000#32 .load = .trap (.tlbl 0xC0000000#32 false) := by decide +kernel

theorem witness_CopUsable_kernel : ∀ i ∈ [Instr.rfe, .tlbr, .tlbwi, .tlbwr, .tlbp, .mtc0 8#5 12#5, .mfc0 8#5 31#5,
    .cfc0 1#5 1#5, .ctc0 1#5 1#5, .bc0f 0#16, .lwc0 0#5 0#5 0#16, .swc0 0#5 0#5 0#16], CopUsable i launch := by
  unfold CopUsable; decide +kernel

theorem witness_CopUsable_user : CopUsable .rfe (sr 0x10000002#32 launch) := by unfold CopUsable; decide +kernel

theorem witness_UnusableCoprocessorTraps :
    (coprocessorOf .rfe = some 0#2 ∧ (sr 2#32 launch).cp0.sr.getLsbD 28 = false ∧ (sr 2#32 launch).cp0.sr.getLsbD 1 = true ∧
      HazardFree .rfe (sr 2#32 launch)) ∧
    (∀ iz ∈ [(Instr.mfc1 1#5 1#5, 1#2), (Instr.bc2t 0#16, 2#2), (Instr.lwc3 1#5 8#5 1#16, 3#2)],
      coprocessorOf iz.1 = some iz.2 ∧ launch.cp0.sr.getLsbD (28 + iz.2.toNat) = false ∧ iz.2 ≠ 0#2 ∧
      HazardFree iz.1 launch) := by unfold HazardFree; decide +kernel

theorem witness_HazardFree : ∀ i ∈ [Instr.addiu 9#5 8#5 1#16, .slti 9#5 8#5 1#16, .sltiu 0#5 8#5 1#16, .andi 9#5 0#5 1#16,
    .ori 9#5 8#5 1#16, .xori 9#5 8#5 1#16], HazardFree i (after9 launch) := by unfold HazardFree; decide +kernel

theorem witness_not_delayed : (after9 launch).ld ≠ some 8#5 ∧ (after9 launch).ld ≠ some 0#5 := by decide +kernel

/-- ADDI, ADD and SUB: the largest and smallest results that fit and the next ones, which do not. -/
theorem witness_TrappingArithmetic :
    ((0x7FFF8000#32).toInt + (0x7FFF#16).toInt = 2 ^ 31 - 1 ∧ (0x80008000#32).toInt + (0x8000#16).toInt = -(2 ^ 31)) ∧
    ((0x7FFF8001#32).toInt + (0x7FFF#16).toInt = 2 ^ 31 ∧ (0x80007FFF#32).toInt + (0x8000#16).toInt = -(2 ^ 31) - 1) ∧
    ((0x7FFFFFFE#32).toInt + (1#32).toInt = 2 ^ 31 - 1 ∧ (0x80000001#32).toInt + (0xFFFFFFFF#32).toInt = -(2 ^ 31)) ∧
    ((0x7FFFFFFF#32).toInt + (1#32).toInt = 2 ^ 31 ∧ (0x80000000#32).toInt + (0xFFFFFFFF#32).toInt = -(2 ^ 31) - 1) ∧
    ((0xFFFFFFFF#32).toInt - (0x80000000#32).toInt = 2 ^ 31 - 1 ∧ (0x80000001#32).toInt - (1#32).toInt = -(2 ^ 31)) ∧
    ((0#32).toInt - (0x80000000#32).toInt = 2 ^ 31 ∧ (0x80000000#32).toInt - (1#32).toInt = -(2 ^ 31) - 1) := by
  decide +kernel

theorem witness_MultiplyProduct : launch.ld ≠ some 8#5 ∧ launch.hiAge = 0 ∧ launch.loAge = 0 := by decide +kernel

theorem witness_DivideQuotientRemainder :
    (let s := regs 0x80000000#32 1#32; s.x 9#5 ≠ 0#32 ∧ ¬(s.x 8#5 = 0x80000000#32 ∧ s.x 9#5 = 0xFFFFFFFF#32)) ∧
    (let s := regs 0x80000001#32 0xFFFFFFFF#32
     s.ld ≠ some 8#5 ∧ s.ld ≠ some 9#5 ∧ s.hiAge = 0 ∧ s.loAge = 0 ∧ s.x 9#5 ≠ 0#32 ∧
       ¬(s.x 8#5 = 0x80000000#32 ∧ s.x 9#5 = 0xFFFFFFFF#32)) := by decide +kernel

theorem witness_DivideCorner :
    (let s := regs 5#32 0#32; s.ld ≠ some 8#5 ∧ s.hiAge = 0 ∧ s.loAge = 0 ∧ s.x 9#5 = 0#32) ∧
    (let s := regs 0x80000000#32 0xFFFFFFFF#32; s.x 8#5 = 0x80000000#32 ∧ s.x 9#5 = 0xFFFFFFFF#32) := by decide +kernel

theorem witness_MovesOfHiAndLo : launch.ld ≠ some 8#5 ∧ launch.hiAge = 0 ∧ launch.loAge = 0 := by decide +kernel

theorem witness_HiLoWriters :
    (∃ t, exec (.mult 8#5 9#5) (regs 0x10000#32 0x10000#32) = .next t ∧ t.hi ≠ (regs 0x10000#32 0x10000#32).hi) ∧
    (∃ t, exec (.mtlo 8#5) (regs 3#32 0#32) = .next t ∧ t.lo ≠ (regs 3#32 0#32).lo) :=
  ⟨⟨_, rfl, by decide +kernel⟩, ⟨_, rfl, by decide +kernel⟩⟩

theorem witness_HiLoHazardFaults :
    (let s := { launch with hiAge := 1 }; s.ld ≠ some 8#5 ∧ 0 < s.hiAge) ∧
    (let s := { launch with loAge := 2 }; s.ld ≠ some 8#5 ∧ 0 < s.loAge) := by decide +kernel

theorem witness_LoadResults :
    dataState.ld ≠ some 8#5 ∧
    (effectiveAddress (dataState.x 8#5) 3#16 = 0x80020003#32 ∧ LoadReady dataState 0x80020003#32 1 0x20003#32) ∧
    (effectiveAddress (dataState.x 8#5) 2#16 = 0x80020002#32 ∧ LoadReady dataState 0x80020002#32 2 0x20002#32) ∧
    (effectiveAddress (dataState.x 8#5) 0xFFFC#16 = 0x8001FFFC#32 ∧ LoadReady dataState 0x8001FFFC#32 4 0x1FFFC#32) ∧
    LoadReady (userAt 0#32) 0x00400FFC#32 4 0x123FFC#32 :=
  ⟨by decide +kernel, ⟨by decide +kernel, ⟨_, rfl⟩, rfl, rfl, rfl⟩, ⟨by decide +kernel, ⟨_, rfl⟩, rfl, rfl, rfl⟩,
    ⟨by decide +kernel, ⟨_, rfl⟩, rfl, rfl, rfl⟩, ⟨_, rfl⟩, rfl, rfl, rfl⟩

theorem witness_LoadMergeResults :
    (after9 mergeState).ld ≠ some 8#5 ∧
    LoadReady (after9 mergeState) (wordAddress (effectiveAddress ((after9 mergeState).x 8#5) 0#16)) 4 0x20000#32 ∧
    LoadReady (after9 mergeState) (wordAddress (effectiveAddress ((after9 mergeState).x 8#5) 3#16)) 4 0x20000#32 :=
  ⟨by decide +kernel, ⟨⟨_, rfl⟩, rfl, rfl, rfl⟩, ⟨_, rfl⟩, rfl, rfl, rfl⟩

theorem witness_StoreResults :
    mergeState.ld ≠ some 8#5 ∧ mergeState.ld ≠ some 9#5 ∧
    StoreReady mergeState (effectiveAddress (mergeState.x 8#5) 3#16) 1 0x20003#32 ∧
    StoreReady mergeState (effectiveAddress (mergeState.x 8#5) 2#16) 2 0x20002#32 ∧
    StoreReady mergeState (effectiveAddress (mergeState.x 8#5) 0#16) 4 0x20000#32 ∧
    (effectiveAddress (mergeState.x 8#5) 2#16).toNat % 2 = 0 ∧ (effectiveAddress (mergeState.x 8#5) 0#16).toNat % 4 = 0 ∧
    StoreReady (userAt 0#32) 0x00400FFC#32 4 0x123FFC#32 :=
  ⟨by decide +kernel, by decide +kernel, ⟨⟨_, rfl⟩, rfl, rfl, rfl⟩, ⟨⟨_, rfl⟩, rfl, rfl, rfl⟩, ⟨⟨_, rfl⟩, rfl, rfl, rfl⟩, by decide +kernel,
    by decide +kernel, ⟨_, rfl⟩, rfl, rfl, rfl⟩

theorem witness_StoreMergeResults :
    StoreReady mergeState (wordAddress (effectiveAddress (mergeState.x 8#5) 0#16)) (0 + 1) 0x20000#32 ∧
    StoreReady mergeState (wordAddress (effectiveAddress (mergeState.x 8#5) 3#16)) (3 + 1) 0x20000#32 ∧
    StoreReady mergeState (effectiveAddress (mergeState.x 8#5) 0#16) (4 - 0) 0x20000#32 ∧
    StoreReady mergeState (effectiveAddress (mergeState.x 8#5) 3#16) (4 - 3) 0x20003#32 :=
  ⟨⟨⟨_, rfl⟩, rfl, rfl, rfl⟩, ⟨⟨_, rfl⟩, rfl, rfl, rfl⟩, ⟨⟨_, rfl⟩, rfl, rfl, rfl⟩, ⟨_, rfl⟩, rfl, rfl, rfl⟩

/-- A at the word boundary (k = 0, one word) and three bytes above it (k = 3, two words). -/
theorem witness_UnalignedPairs :
    mergeState.ld ≠ some 8#5 ∧ mergeState.ld ≠ some 9#5 ∧
    (effectiveAddress (mergeState.x 8#5) 3#16 = effectiveAddress (mergeState.x 8#5) 0#16 + 3#32 ∧
      LoadReady mergeState (wordAddress 0x80020000#32) 4 0x20000#32 ∧
      LoadReady mergeState (wordAddress (0x80020000#32 + 3#32)) 4 0x20000#32 ∧
      StoreReady mergeState 0x80020000#32 (4 - 0) 0x20000#32 ∧
      StoreReady mergeState (wordAddress (0x80020000#32 + 3#32)) ((0x80020000#32 + 3#32).toNat % 4 + 1) 0x20000#32) ∧
    (effectiveAddress (mergeState.x 8#5) 6#16 = effectiveAddress (mergeState.x 8#5) 3#16 + 3#32 ∧
      LoadReady mergeState (wordAddress 0x80020003#32) 4 0x20000#32 ∧
      LoadReady mergeState (wordAddress (0x80020003#32 + 3#32)) 4 0x20004#32 ∧
      StoreReady mergeState 0x80020003#32 (4 - 3) 0x20003#32 ∧
      StoreReady mergeState (wordAddress (0x80020003#32 + 3#32)) ((0x80020003#32 + 3#32).toNat % 4 + 1) 0x20004#32) :=
  ⟨by decide +kernel, by decide +kernel,
    ⟨by decide +kernel, ⟨⟨_, rfl⟩, rfl, rfl, rfl⟩, ⟨⟨_, rfl⟩, rfl, rfl, rfl⟩, ⟨⟨_, rfl⟩, rfl, rfl, rfl⟩, ⟨_, rfl⟩, rfl, rfl, rfl⟩,
    ⟨by decide +kernel, ⟨⟨_, rfl⟩, rfl, rfl, rfl⟩, ⟨⟨_, rfl⟩, rfl, rfl, rfl⟩, ⟨⟨_, rfl⟩, rfl, rfl, rfl⟩, ⟨_, rfl⟩, rfl, rfl, rfl⟩⟩

theorem witness_MisalignedAccessTraps :
    let s := sr 0xF0000000#32 mergeState
    (∀ iv ∈ [(Instr.lh 9#5 8#5 1#16, AccessKind.load, 0x80020001#32, 2), (.lw 9#5 8#5 3#16, .load, 0x80020003#32, 4),
        (.sh 9#5 8#5 3#16, .store, 0x80020003#32, 2), (.sw 9#5 8#5 2#16, .store, 0x80020002#32, 4),
        (.lwc2 9#5 8#5 1#16, .load, 0x80020001#32, 4), (.swc2 9#5 8#5 2#16, .store, 0x80020002#32, 4),
        (.swc0 9#5 8#5 1#16, .store, 0x80020001#32, 4), (.swc1 9#5 8#5 2#16, .store, 0x80020002#32, 4),
        (.swc3 9#5 8#5 3#16, .store, 0x80020003#32, 4), (.lwc1 9#5 8#5 2#16, .load, 0x80020002#32, 4)],
      checkedAddress iv.1 s = some (iv.2.1, iv.2.2.1) ∧ HazardFree iv.1 s ∧ CopUsable iv.1 s ∧
        iv.2.2.1.toNat % alignmentOf iv.1 ≠ 0) := by
  unfold HazardFree CopUsable; decide +kernel

theorem witness_DataAccessDoesNotReach_trap :
    let s := mapped 0x40#32
    (dataAccess (.lw 9#5 0#5 0#16) s = some (.load, 0#32, 4) ∧ HazardFree (.lw 9#5 0#5 0#16) s ∧
      CopUsable (.lw 9#5 0#5 0#16) s ∧ (0#32).toNat % alignmentOf (.lw 9#5 0#5 0#16) = 0 ∧
      translateAddress s 0#32 .load = .trap (.tlbl 0#32 true)) ∧
    translateAddress (twoHits.setX 8#5 0x00400000#32) 0x00400004#32 .store = .stop .multipleTlbMatch := by
  unfold HazardFree CopUsable; decide +kernel

theorem witness_DataAccessDoesNotReach_bus :
    let s := on busErrors (sr 0x40000000#32 mergeState)
    s.cp0.sr.getLsbD 16 = false ∧ s.platform.busError 0x20000#32 .load = true ∧
      s.platform.busError 0x2001F#32 .store = true ∧
      (∀ iv ∈ [(Instr.lb 9#5 8#5 0#16, AccessKind.load, 0x80020000#32, 1), (.sb 9#5 8#5 0x1F#16, .store, 0x8002001F#32, 1),
          (.swc2 9#5 8#5 0#16, .store, 0x80020000#32, 4)],
        dataAccess iv.1 s = some iv.2 ∧ HazardFree iv.1 s ∧ CopUsable iv.1 s ∧ iv.2.2.1.toNat % alignmentOf iv.1 = 0) ∧
      translateAddress s 0x80020000#32 .load = .done { pa := 0x20000#32, cacheable := true } := by
  unfold HazardFree CopUsable; decide +kernel

theorem witness_DataAccessDoesNotReach_hole :
    let s := on holes mergeState
    s.platform.busError 0x20000#32 .load = false ∧ s.platform.populatedAt 0x20000#32 4 = false ∧
      translateAddress s 0x80030FFC#32 .store = .done { pa := 0x30FFC#32, cacheable := true } ∧
      s.platform.busError 0x30FFC#32 .store = false ∧ s.platform.writableAt 0x30FFC#32 4 = false ∧
      s.platform.writableAt 0x31000#32 4 = true := by decide +kernel

theorem witness_IsolatedCacheAccess_target :
    loadTarget (.lbu 9#5 8#5 3#16) = some 9#5 ∧ loadTarget (.lwr 0#5 8#5 1#16) = some 0#5 ∧
      loadTarget (.lwc2 9#5 8#5 0#16) = none := by decide

theorem witness_IsolatedCacheAccess :
    let s := sr 0x40010000#32 mergeState
    s.cp0.sr.getLsbD 16 = true ∧
      (∀ iv ∈ [(Instr.lbu 9#5 8#5 3#16, AccessKind.load, 0x80020003#32, 1), (.swr 9#5 8#5 1#16, .store, 0x80020001#32, 3),
          (.lwc2 9#5 8#5 0#16, .load, 0x80020000#32, 4), (.swc2 9#5 8#5 0#16, .store, 0x80020000#32, 4)],
        dataAccess iv.1 s = some iv.2 ∧ HazardFree iv.1 s ∧ CopUsable iv.1 s ∧
        (coprocessorOf iv.1 = none ∨ coprocessorOf iv.1 = some 2#2) ∧ iv.2.2.1.toNat % alignmentOf iv.1 = 0 ∧
        (nextOf (exec iv.1 s)).isSome = true) ∧
      translateAddress s 0x80020003#32 .load = .done { pa := 0x20003#32, cacheable := true } := by
  unfold HazardFree CopUsable; decide +kernel

theorem witness_StoreSeenByNextLoad :
    mergeState.ld ≠ some 8#5 ∧ mergeState.ld ≠ some 9#5 ∧
    StoreReady mergeState (effectiveAddress (mergeState.x 8#5) 0#16) 4 0x20000#32 ∧
    LoadReady mergeState (effectiveAddress (mergeState.x 8#5) 0#16) 4 0x20000#32 ∧
    (effectiveAddress (mergeState.x 8#5) 0#16).toNat % 4 = 0 :=
  ⟨by decide +kernel, by decide +kernel, ⟨⟨_, rfl⟩, rfl, rfl, rfl⟩, ⟨⟨_, rfl⟩, rfl, rfl, rfl⟩, by decide +kernel⟩

theorem witness_UnmappedSegments :
    [0x80000000#32, 0x9FFFFFFF#32, 0xA0000000#32, 0xBFFFFFFF#32].all (fun va => decide
      (va.extractLsb' 30 2 = 0b10#2 ∧ 0x80000000 ≤ va.toNat ∧ va.toNat < 0xC0000000)) = true ∧
    launch.cp0.sr.getLsbD 1 = false ∧ (sr 2#32 launch).cp0.sr.getLsbD 1 = true ∧ (0x80000000#32).getLsbD 31 = true :=
  ⟨by decide +kernel, rfl, rfl, rfl⟩

theorem witness_MappedTranslation_miss :
    (0x7FFFFFFF#32).extractLsb' 30 2 ≠ 0b10#2 ∧ (∀ i, ¬Matches launch i 0x7FFFFFFF#32) ∧
    (0xC0000000#32).extractLsb' 30 2 ≠ 0b10#2 ∧ (∀ i, ¬Matches launch i 0xC0000000#32) := by
  unfold Matches; decide +kernel

theorem witness_MappedTranslation_hit :
    (∀ s ∈ [entry 3 0x00400040#32 0x00123400#32 (mapped 0x40#32), entry 3 0x00400040#32 0x00123200#32 (mapped 0x40#32),
        entry 3 0x00400040#32 0x00123F00#32 (mapped 0#32)],
      s.cp0.sr.getLsbD 1 = false ∧ Matches s 3 0x00400FFF#32 ∧ ∀ j, Matches s j 0x00400FFF#32 → j = 3) ∧
    (Matches twoHits 3 0x00400000#32 ∧ Matches twoHits 5 0x00400000#32) := by unfold Matches; decide +kernel

theorem witness_JumpResults : launch.slot = false ∧ launch.ld ≠ some 31#5 := by decide +kernel

theorem witness_LinkResults : launch.slot = false ∧ launch.ld ≠ some 8#5 ∧ (8#5 ≠ 31#5 ∨ 31#5 = 0#5) := by decide +kernel

theorem witness_BranchResults : launch.slot = false ∧ launch.ld ≠ some 8#5 ∧ launch.ld ≠ some 9#5 := by decide +kernel

theorem witness_JumpInDelaySlotFaults :
    isJump (.bc0t 0#16) = true ∧ (Instr.bc0t 0#16).wf = true ∧ (inSlot launch).slot = true ∧
    (∀ r ∈ delayedSources (.jr 8#5), (inSlot launch).ld ≠ some r) := by decide +kernel

theorem witness_LoadDelayFaults :
    (Instr.addu 10#5 9#5 9#5).wf = true ∧ (after9 launch).ld = some 9#5 ∧ 9#5 ∈ delayedSources (.addu 10#5 9#5 9#5) ∧
    9#5 ∈ delayedSources (.lwl 8#5 9#5 0#16) := by decide +kernel

theorem witness_PreciseExceptions :
    (∃ t, exec (.bltzal 8#5 2#16) (regs 0#32 0#32) = .next t) ∧ (∃ t, exec (.syscall 0#20) launch = .next t) ∧
    (∃ t, exec (.swc2 9#5 8#5 0#16) (on busErrors (sr 0x40000000#32 mergeState)) = .next t) :=
  ⟨⟨_, rfl⟩, ⟨_, rfl⟩, ⟨_, rfl⟩⟩

theorem witness_MemoryWriters :
    writesMemory (.lwl 9#5 8#5 1#16) = false ∧ ∃ t, exec (.lwl 9#5 8#5 1#16) mergeState = .next t := ⟨rfl, _, rfl⟩

/-- The user-mode state with r8 in its writable page. -/
def userStore : State := (userAt 0#32).setX 8#5 0x00400200#32

theorem witness_UserModeKeepsSystemState :
    userStore.cp0.sr.getLsbD 1 = true ∧ userStore.cp0.sr.getLsbD 28 = false ∧
    (∃ t, exec (.addiu 9#5 8#5 1#16) userStore = .next t) ∧ (∃ t, exec .rfe userStore = .next t) :=
  ⟨rfl, rfl, ⟨_, rfl⟩, _, rfl⟩

theorem witness_UserModeStoresThroughTlb :
    userStore.cp0.sr.getLsbD 1 = true ∧
    ∃ t, exec (.sb 8#5 8#5 1#16) (userStore.setX 8#5 0x00400201#32) = .next t ∧
      Memory.read t.mem 0x123202 ≠ Memory.read (userStore.setX 8#5 0x00400201#32).mem 0x123202 :=
  ⟨rfl, _, rfl, by decide +kernel⟩

theorem witness_ModeChanges :
    (∃ t, exec (.syscall 0#20) userStore = .next t ∧ t.cp0.sr.getLsbD 1 ≠ userStore.cp0.sr.getLsbD 1) ∧
    (∃ t, exec .rfe (sr 8#32 launch) = .next t ∧ t.cp0.sr.getLsbD 1 ≠ (sr 8#32 launch).cp0.sr.getLsbD 1) ∧
    (∃ t, exec (.mtc0 8#5 12#5) (regs 2#32 0#32) = .next t ∧
      t.cp0.sr.getLsbD 1 ≠ (regs 2#32 0#32).cp0.sr.getLsbD 1) :=
  ⟨⟨_, rfl, by decide +kernel⟩, ⟨_, rfl, by decide +kernel⟩, ⟨_, rfl, by decide +kernel⟩⟩

theorem witness_StepKeepsInvariant :
    (fetched 0x2408000A#32).Inv ∧ ∃ t, step (fetched 0x2408000A#32) = .next t :=
  ⟨⟨rfl, by decide +kernel, fun _ => rfl, by decide +kernel, by decide +kernel, by decide +kernel,
      ⟨by decide +kernel, by decide +kernel, by decide +kernel, by decide +kernel, by decide +kernel, by decide +kernel, by decide +kernel, by decide +kernel, by decide +kernel⟩,
      by unfold TlbEntry.Legal; decide +kernel⟩, ⟨_, rfl⟩⟩

theorem witness_StopsOfUsableCoprocessors :
    (∀ i ∈ [Instr.mfc1 1#5 1#5, .ctc3 1#5 1#5, .bc1t 0#16, .cop3 0#25, .swc1 1#5 8#5 1#16, .swc3 1#5 8#5 0#16,
        .lwc1 1#5 8#5 0#16], CopUsable i (sr 0xA0000000#32 mergeState) ∧ HazardFree i (sr 0xA0000000#32 mergeState)) ∧
    (∀ i ∈ [Instr.cfc0 1#5 1#5, .ctc0 1#5 1#5, .swc0 1#5 8#5 3#16, .lwc0 1#5 8#5 0#16, .bc0f 0#16, .bc0t 0#16],
      CopUsable i mergeState ∧ HazardFree i mergeState) ∧
    (effectiveAddress (mergeState.x 8#5) 0#16).toNat % 4 = 0 ∧
    (effectiveAddress (mergeState.x 8#5) 1#16).toNat % 4 ≠ 0 := by unfold HazardFree CopUsable; decide +kernel

theorem witness_StopsOfUsableCoprocessors_load :
    ∃ pa, LoadReady (sr 0xA0000000#32 mergeState) (effectiveAddress (mergeState.x 8#5) 0#16) 4 pa :=
  ⟨_, ⟨_, rfl⟩, rfl, rfl, rfl⟩

theorem witness_Cop2Instructions :
    let s := sr 0x40000000#32 launch
    s.cp0.sr.getLsbD 30 = true ∧ s.ld ≠ some 8#5 ∧ s.slot = false := by decide +kernel

theorem witness_Cop2LoadAndStore :
    let s := sr 0x40000000#32 mergeState
    s.cp0.sr.getLsbD 30 = true ∧ s.ld ≠ some 8#5 ∧ (effectiveAddress (s.x 8#5) 4#16).toNat % 4 = 0 ∧
      LoadReady s (effectiveAddress (s.x 8#5) 4#16) 4 0x20004#32 ∧
      StoreReady s (effectiveAddress (s.x 8#5) 4#16) 4 0x20004#32 :=
  ⟨rfl, by decide +kernel, by decide +kernel, ⟨⟨_, rfl⟩, rfl, rfl, rfl⟩, ⟨_, rfl⟩, rfl, rfl, rfl⟩

theorem witness_Mtc0WritesRegister :
    let s := regs 0xFDFDFFFF#32 0#32
    s.ld ≠ some 8#5 ∧ (s.x 8#5).getLsbD 25 = false ∧ (s.x 8#5).getLsbD 17 = false ∧
      ∀ rd ∈ [0#5, 1#5, 2#5, 4#5, 8#5, 10#5, 12#5, 13#5, 14#5, 15#5], CopUsable (.mtc0 8#5 rd) s := by
  unfold CopUsable; decide +kernel

theorem witness_StatusWriteMask :
    let s := regs 0x02000000#32 0x00020000#32
    CopUsable (.mtc0 8#5 12#5) s ∧ s.ld ≠ some 8#5 ∧ (s.x 8#5).getLsbD 25 = true ∧ (s.x 9#5).getLsbD 25 = false ∧
      (s.x 9#5).getLsbD 17 = true ∧ (s.x 10#5).getLsbD 25 = false ∧ (s.x 10#5).getLsbD 17 = false := by
  unfold CopUsable; decide +kernel

theorem witness_Mfc0ReadsRegister : ∀ rd ∈ [0#5, 1#5, 2#5, 4#5, 8#5, 10#5, 12#5, 13#5, 14#5, 15#5],
    CopUsable (.mfc0 8#5 rd) (sr 0x10000002#32 launch) := by unfold CopUsable; decide +kernel

theorem witness_ReservedCop0Registers : ∀ rd ∈ [3#5, 11#5, 16#5, 31#5],
    (rd ∈ [3#5, 5#5, 6#5, 7#5, 9#5, 11#5] ∨ 16 ≤ rd.toNat) ∧ CopUsable (.mfc0 8#5 rd) launch ∧
    CopUsable (.mtc0 8#5 rd) launch := by unfold CopUsable; decide +kernel

theorem witness_TlbReadAndWrite : CopUsable .tlbr tlbState ∧ (3 : Fin Config.tlbEntries).val = (tlbState.cp0.index.extractLsb' 8 6).toNat := by
  unfold CopUsable; decide +kernel

theorem witness_TlbProbe :
    (CopUsable .tlbp (mapped 0x00400040#32) ∧ Matches (mapped 0x00400040#32) 3 0x00400040#32 ∧
      ∀ j, Matches (mapped 0x00400040#32) j 0x00400040#32 → j = 3) ∧
    (∀ i, ¬Matches (mapped 0x00400080#32) i (mapped 0x00400080#32).cp0.entryHi) ∧
    (let s := entry 63 0x00400040#32 0#32 (mapped 0x00400040#32)
     Matches s 3 s.cp0.entryHi ∧ Matches s 63 s.cp0.entryHi) := by unfold CopUsable Matches; decide +kernel

end Sys2Proof.Tests
end

section
/-! The reserved registers of coprocessor 0 (10_state.md R42): they have no storage, so MFC0 and MTC0 stop. -/

namespace Sys2Proof.Machine

/-- The numbers of coprocessor 0 registers that 10_state.md R42 reserves. -/
def ReservedCp0Number (rd : Reg) : Prop := rd ∈ [3#5, 5#5, 6#5, 7#5, 9#5, 11#5] ∨ 16 ≤ rd.toNat

theorem reservedCp0Number_iff_toNat (rd : Reg) :
    ReservedCp0Number rd ↔ rd.toNat ∉ [0, 1, 2, 4, 8, 10, 12, 13, 14, 15] := by
  revert rd; unfold ReservedCp0Number; decide

theorem readCp0_eq_none_iff (s : State) (rd : Reg) : readCp0 s rd = none ↔ ReservedCp0Number rd := by
  rw [reservedCp0Number_iff_toNat]
  unfold readCp0
  split <;> simp_all

theorem writeCp0_eq_none_iff (s : State) (rd : Reg) (v : Word) : writeCp0 s rd v = none ↔ ReservedCp0Number rd := by
  rw [reservedCp0Number_iff_toNat]
  unfold writeCp0
  split <;> simp_all

theorem ReservedCp0Number.ne_sr {rd : Reg} (h : ReservedCp0Number rd) : rd ≠ 12#5 := by
  rintro rfl
  exact absurd ((reservedCp0Number_iff_toNat _).1 h) (by decide)

theorem CopUsable.usable {i : Instr} {s : State} {z : BitVec 2} (h : CopUsable i s) (hz : coprocessorOf i = some z) :
    s.usable z = true := h z hz

theorem exec_mfc0 (rt rd : Reg) (s : State) : exec (.mfc0 rt rd) s = execMfc0 rt rd s := rfl

theorem exec_mtc0 (rt rd : Reg) (s : State) : exec (.mtc0 rt rd) s = execMtc0 rt rd s := rfl

theorem exec_mfc0_reserved {rt rd : Reg} {s : State} (hr : ReservedCp0Number rd) (hu : CopUsable (.mfc0 rt rd) s) :
    exec (.mfc0 rt rd) s = .fault .reservedCp0Register := by
  rw [exec_mfc0, execMfc0, withCop_usable (hu.usable rfl), (readCp0_eq_none_iff s rd).2 hr]

/-- The faults that MTC0 tests before it writes are those of SR, which is not reserved. -/
theorem exec_mtc0_reserved {rt rd : Reg} {s : State} (hr : ReservedCp0Number rd) (hu : CopUsable (.mtc0 rt rd) s)
    (hd : s.ld ≠ some rt) : exec (.mtc0 rt rd) s = .fault .reservedCp0Register := by
  rw [exec_mtc0, execMtc0, reading_free hd, withCop_usable (hu.usable rfl), (writeCp0_eq_none_iff s rd (s.x rt)).2 hr]
  simp [hr.ne_sr]

/-- Settles O58: a reserved number has no value to read and no register to write. -/
theorem reservedCop0Registers : Obligations.ReservedCop0Registers :=
  fun _ _ _ hr => ⟨exec_mfc0_reserved hr, exec_mtc0_reserved hr⟩

end Sys2Proof.Machine
end

section
/-! The state a TLB exception leaves (20_memory.md R81): BadVAddr, Context.BadVPN and EntryHi.VPN name the address. -/

namespace Sys2Proof.Machine

theorem contextWithBadVpn_badVpn (context va : Word) :
    (contextWithBadVpn context va).extractLsb' 2 19 = va.extractLsb' 12 19 := by
  apply BitVec.eq_of_getLsbD_eq
  intro j hj
  rw [getLsbD_field _ hj rfl, contextWithBadVpn_getLsbD _ _ _ (by omega), if_pos (by omega),
    getLsbD_field va hj (k := 2 + j + 10) (by omega)]

theorem entryHiWithVpn_vpn (entryHi va : Word) :
    (entryHiWithVpn entryHi va).extractLsb' 12 20 = va.extractLsb' 12 20 := by
  apply BitVec.eq_of_getLsbD_eq
  intro j hj
  rw [getLsbD_field _ hj rfl, entryHiWithVpn_getLsbD _ _ _ (by omega), if_pos (by omega), getLsbD_field va hj rfl]

theorem entryHiWithVpn_asid (entryHi va : Word) :
    (entryHiWithVpn entryHi va).extractLsb' 6 6 = entryHi.extractLsb' 6 6 := by
  apply BitVec.eq_of_getLsbD_eq
  intro j hj
  rw [getLsbD_field _ hj rfl, entryHiWithVpn_getLsbD _ _ _ (by omega), if_neg (by omega), getLsbD_field entryHi hj rfl]

theorem Exc.tlbAddress_eq_some_iff (e : Exc) (va : Word) :
    e.tlbAddress = some va ↔ e = .mod va ∨ (∃ r, e = .tlbl va r) ∨ ∃ r, e = .tlbs va r := by
  cases e <;> simp [Exc.tlbAddress]

theorem Exc.badAddress_of_tlbAddress {e : Exc} {va : Word} (h : e.tlbAddress = some va) : e.badAddress = some va := by
  obtain rfl | ⟨r, rfl⟩ | ⟨r, rfl⟩ := (e.tlbAddress_eq_some_iff va).1 h <;> rfl

theorem Cp0.enter_badVAddr {e : Exc} {va : Word} (h : e.badAddress = some va) (c : Cp0) (a : Word) (inSlot : Bool) :
    (c.enter e a inSlot).badVAddr = va := by simp [Cp0.enter, h]

theorem Cp0.enter_context {e : Exc} {va : Word} (h : e.tlbAddress = some va) (c : Cp0) (a : Word) (inSlot : Bool) :
    (c.enter e a inSlot).context = contextWithBadVpn c.context va := by simp [Cp0.enter, h]

theorem Cp0.enter_entryHi {e : Exc} {va : Word} (h : e.tlbAddress = some va) (c : Cp0) (a : Word) (inSlot : Bool) :
    (c.enter e a inSlot).entryHi = entryHiWithVpn c.entryHi va := by simp [Cp0.enter, h]

/-- Settles O38: TLBL, TLBS and Mod are the exceptions with a TLB address, and the entry loads that address into
the three fields. -/
theorem tlbExceptionState : Obligations.TlbExceptionState := by
  intro s va r e he
  have hva : e.tlbAddress = some va := by
    rw [Exc.tlbAddress_eq_some_iff]
    simp only [List.mem_cons, List.not_mem_nil, or_false] at he
    rcases he with rfl | rfl | rfl
    · exact .inr (.inl ⟨r, rfl⟩)
    · exact .inr (.inr ⟨r, rfl⟩)
    · exact .inl rfl
  rw [State.takeException_cp0, Cp0.enter_badVAddr (Exc.badAddress_of_tlbAddress hva), Cp0.enter_context hva,
    Cp0.enter_entryHi hva]
  exact ⟨rfl, contextWithBadVpn_badVpn _ _, entryHiWithVpn_vpn _ _, entryHiWithVpn_asid _ _⟩

end Sys2Proof.Machine
end

section
/-! Translation in kseg0 and kseg1 (20_memory.md R78, R79). -/

namespace Sys2Proof.Machine

/-- kseg0 and kseg1 as a range of addresses (20_memory.md R78). -/
theorem unmapped_iff_range (va : Word) :
    va.extractLsb' 30 2 = 0b10#2 ↔ 0x80000000 ≤ va.toNat ∧ va.toNat < 0xC0000000 := by
  rw [unmapped_iff, top3_iff, top3_iff]
  simp only [BitVec.toNat_ofNat]
  omega

/-- kseg0 lies below kseg1. -/
theorem kseg0_iff_of_unmapped {va : Word} (h : va.extractLsb' 30 2 = 0b10#2) :
    va.extractLsb' 29 3 = 0b100#3 ↔ va.toNat < 0xA0000000 := by
  have hrange := (unmapped_iff_range va).1 h
  rw [top3_iff]
  simp only [BitVec.toNat_ofNat]
  omega

theorem getLsbD_31_of_unmapped {va : Word} (h : va.extractLsb' 30 2 = 0b10#2) : va.getLsbD 31 = true := by
  simpa using congrArg (·.getLsbD 1) h

/-- In kseg0 and kseg1 the mode alone decides between an Address Error and the low 29 bits (20_memory.md R78, R79). -/
theorem translateAddress_kseg01 (s : State) {va : Word} (kind : AccessKind) (h : va.extractLsb' 30 2 = 0b10#2) :
    translateAddress s va kind =
      if s.cp0.sr.getLsbD 1 = true then .trap (addressError kind va)
      else .done { pa := 0#3 ++ va.extractLsb' 0 29, cacheable := va.extractLsb' 29 3 == 0b100#3 } := by
  split
  · next hu => exact translateAddress_user kind hu (getLsbD_31_of_unmapped h)
  · next hk => exact translateAddress_unmapped kind (by simpa using hk) h

theorem addressError_eq (kind : AccessKind) (va : Word) :
    addressError kind va = if kind = .store then .ades va else .adel va := by cases kind <;> rfl

theorem addressError_not_tlb (kind : AccessKind) (va : Word) (r : Bool) :
    addressError kind va ∉ [.tlbl va r, .tlbs va r, .mod va] := by
  cases kind <;> simp [addressError]

/-- Settles O36, from the one equation of translation in kseg0 and kseg1 and the privilege check. -/
theorem unmappedSegments : Obligations.UnmappedSegments := by
  intro s va kind
  refine ⟨fun hseg => ?_, fun hu hv => ?_, fun hk hlo hhi => ?_⟩
  · refine ⟨fun tlb => ?_, fun t ht => ?_, fun f hf => ?_, fun e he r => ?_⟩
    · rw [translateAddress_kseg01 _ kind hseg, translateAddress_kseg01 _ kind hseg]
    · rw [translateAddress_kseg01 s kind hseg] at ht
      split at ht <;> cases ht
      rfl
    · rw [translateAddress_kseg01 s kind hseg] at hf
      split at hf <;> cases hf
    · rw [translateAddress_kseg01 s kind hseg] at he
      split at he <;> cases he
      exact addressError_not_tlb kind va r
  · rw [translateAddress_user kind hu hv, addressError_eq]
  · have hseg := (unmapped_iff_range va).2 ⟨hlo, hhi⟩
    exact ⟨_, translateAddress_unmapped kind hk hseg, by simpa using kseg0_iff_of_unmapped hseg⟩

end Sys2Proof.Machine
end

section
/-! The Reserved Instruction words (30_encoding.md R116): the N/A cells of the two opcode maps and the code of the
exception they raise. -/

namespace Sys2Proof

/-- The N/A cells of the primary map as the ranges R116 writes. -/
theorem mem_naPrimary_iff {op : Nat} (h : op < 64) :
    op ∈ naPrimary ↔ (0x14 ≤ op ∧ op ≤ 0x1F) ∨ op = 0x27 ∨ op = 0x2C ∨ op = 0x2D ∨ op = 0x2F ∨
      (0x34 ≤ op ∧ op ≤ 0x37) ∨ 0x3C ≤ op := by
  revert op; decide

/-- The N/A cells of the secondary map as the ranges R116 writes. -/
theorem mem_naSecondary_iff {funct : Nat} (h : funct < 64) :
    funct ∈ naSecondary ↔ funct = 0x01 ∨ funct = 0x05 ∨ funct = 0x0A ∨ funct = 0x0B ∨ funct = 0x0E ∨ funct = 0x0F ∨
      (0x14 ≤ funct ∧ funct ≤ 0x17) ∨ (0x1C ≤ funct ∧ funct ≤ 0x1F) ∨ funct = 0x28 ∨ funct = 0x29 ∨ 0x2C ≤ funct := by
  revert funct; decide

theorem isReservedWord_iff (w : Word) :
    isReservedWord w = true ↔ (w.extractLsb' 26 6).toNat ∈ naPrimary ∨
      ((w.extractLsb' 26 6).toNat = 0 ∧ (w.extractLsb' 0 6).toNat ∈ naSecondary) := by
  simp [isReservedWord]

end Sys2Proof

namespace Sys2Proof.Machine

/-- Exception entry loads Cause.ExcCode with the code of the exception (60_exceptions.md R290). -/
theorem causeEnter_excCode (cause : Word) (inSlot : Bool) (e : Exc) :
    (causeEnter cause inSlot e).extractLsb' 2 5 = e.code := by
  apply BitVec.eq_of_getLsbD_eq
  intro j hj
  rw [getLsbD_field _ hj rfl, causeEnter_getLsbD _ _ _ _ (by omega), if_neg (by omega), if_neg (by omega),
    if_pos (by omega), Nat.add_sub_cancel_left]

theorem State.takeException_excCode (s : State) (e : Exc) :
    (s.takeException e).cp0.cause.extractLsb' 2 5 = e.code := causeEnter_excCode _ _ _

theorem exec_reserved (w : Word) (s : State) : exec (.reserved w) s = .next (s.takeException .ri) := rfl

/-- Settles O3: the ranges are the two lists of N/A cells, whose words decode to RESERVED, and RESERVED does nothing
but take RI. -/
theorem reservedCellsRaiseRI : Obligations.ReservedCellsRaiseRI := by
  intro w hcell
  have hreserved : isReservedWord w = true := by
    rw [isReservedWord_iff, mem_naPrimary_iff (BitVec.isLt _), mem_naSecondary_iff (BitVec.isLt _)]
    simpa only [or_assoc] using hcell
  exact ⟨.reserved w, decode_reserved w hreserved, fun s =>
    ⟨exec_reserved w s, State.takeException_excCode s .ri⟩⟩

end Sys2Proof.Machine
end

section
/-! The linking jumps and branches (45_jump_branch.md R211, R213, R220, R221, R225, R227). -/

namespace Sys2Proof.Machine

/-! ## The operands of the linking forms (R227) -/

theorem jalrOperandsOk_iff (rs rd : Reg) : jalrOperandsOk rs rd = true ↔ rs ≠ rd ∨ rd = 0#5 := by
  simp [jalrOperandsOk]

theorem linkBranchOperandOk_iff (rs : Reg) : linkBranchOperandOk rs = true ↔ rs ≠ 31#5 := by
  simp [linkBranchOperandOk]

/-! ## The conditions of the branches against zero (R229) -/

theorem isNegative_iff (v : Word) : isNegative v = true ↔ v.toInt < 0 := by
  rw [isNegative, BitVec.msb_eq_toInt, decide_eq_true_iff]

theorem not_isNegative_iff (v : Word) : (!isNegative v) = true ↔ 0 ≤ v.toInt := by
  rw [Bool.not_eq_true', ← Bool.not_eq_true, isNegative_iff, not_lt]

/-! ## Where nothing stops them -/

theorem exec_bltzal (rs : Reg) (offset : Half) (s : State) :
    exec (.bltzal rs offset) s = branchZeroLink (fun v => isNegative v) rs offset s := rfl

theorem exec_bgezal (rs : Reg) (offset : Half) (s : State) :
    exec (.bgezal rs offset) s = branchZeroLink (fun v => !isNegative v) rs offset s := rfl

theorem exec_jal {s : State} (hslot : s.slot = false) (target : BitVec 26) :
    exec (.jal target) s = .next ((s.setX 31#5 (linkAddress s.pc)).retireJump true (jumpTarget s.pc target)) :=
  outsideSlot_free hslot _

/-- The target is the register's value before the link is written, also where rd is r0 and so is rs. -/
theorem exec_jalr {rs rd : Reg} {s : State} (hslot : s.slot = false) (hld : s.ld ≠ some rs)
    (hok : rs ≠ rd ∨ rd = 0#5) :
    exec (.jalr rs rd) s = .next ((s.setX rd (linkAddress s.pc)).retireJump true (s.x rs)) :=
  (if_pos ((jalrOperandsOk_iff rs rd).2 hok)).trans <| (reading_free hld _).trans <| outsideSlot_free hslot _

/-- The link is written whether or not the condition holds, and the branch still counts from its own pc. -/
theorem branchZeroLink_run {cond : Word → Bool} {rs : Reg} {offset : Half} {s : State} (hslot : s.slot = false)
    (hld : s.ld ≠ some rs) (hrs : rs ≠ 31#5) :
    branchZeroLink cond rs offset s =
      .next ((s.setX 31#5 (linkAddress s.pc)).retireJump (cond (s.x rs)) (branchTarget s.pc offset)) := by
  rw [branchZeroLink, if_pos ((linkBranchOperandOk_iff rs).2 hrs), reading_free hld, outsideSlot_free hslot, branchWhen,
    State.setX_pc]

theorem bltzal_links {rs : Reg} {s : State} (hslot : s.slot = false) (hld : s.ld ≠ some rs) (hrs : rs ≠ 31#5)
    (offset : Half) : Links (.bltzal rs offset) s 31#5 ((s.x rs).toInt < 0) (branchTarget s.pc offset) :=
  links_of (isNegative_iff (s.x rs)) ((exec_bltzal rs offset s).trans (branchZeroLink_run hslot hld hrs))

theorem bgezal_links {rs : Reg} {s : State} (hslot : s.slot = false) (hld : s.ld ≠ some rs) (hrs : rs ≠ 31#5)
    (offset : Half) : Links (.bgezal rs offset) s 31#5 (0 ≤ (s.x rs).toInt) (branchTarget s.pc offset) :=
  links_of (not_isNegative_iff (s.x rs)) ((exec_bgezal rs offset s).trans (branchZeroLink_run hslot hld hrs))

/-! ## The forms whose link register is their source -/

theorem exec_jalr_refused {rd : Reg} (hrd : rd ≠ 0#5) (s : State) :
    exec (.jalr rd rd) s = .refused .jalrSameRegister :=
  if_neg (by simp [jalrOperandsOk_iff, hrd])

theorem branchZeroLink_refused (cond : Word → Bool) (offset : Half) (s : State) :
    branchZeroLink cond 31#5 offset s = .refused .linkBranchOn31 :=
  if_neg (by simp [linkBranchOperandOk_iff])

/-- Settles O40: outside a delay slot each linking form is the write of pc + 8 followed by its transfer, and the two
operand checks come before everything else. -/
theorem linkResults : Obligations.LinkResults := by
  intro target rs rd offset s
  refine ⟨fun hslot => ?jal, fun hslot hld hok => ?jalr, ?jalrRefused, fun hslot hld hrs => ?branches,
    ?branchesRefused⟩
  case jal => exact links_of (iff_of_true rfl trivial) (exec_jal hslot target)
  case jalr => exact links_of (iff_of_true rfl trivial) (exec_jalr hslot hld hok)
  case jalrRefused =>
    rintro rfl hrs
    exact exec_jalr_refused hrs s
  case branches => exact ⟨bltzal_links hslot hld hrs offset, bgezal_links hslot hld hrs offset⟩
  case branchesRefused =>
    rintro rfl
    rw [exec_bltzal, exec_bgezal]
    exact ⟨branchZeroLink_refused _ offset s, branchZeroLink_refused _ offset s⟩

end Sys2Proof.Machine
end

section
/-! MTC0 to SR: the bits it writes and the values it stops at (48_cop0.md R250, R258; 10_state.md R38; 20_memory.md
R92; log 35). -/

namespace Sys2Proof.Machine

/-- The mask in the field positions of R258: the KU/IE stack, IM with IsC, SwC and PZ above it, BEV, RE and CU. -/
theorem srWriteMask_getLsbD_iff : ∀ k < 32,
    srWriteMask.getLsbD k = true ↔ k ≤ 5 ∨ (8 ≤ k ∧ k ≤ 18) ∨ k = 22 ∨ k = 25 ∨ 28 ≤ k := by decide

theorem srWrite_getLsbD_field (sr v : Word) {k : Nat} (hk : k < 32) :
    (srWrite sr v).getLsbD k =
      if k ≤ 5 ∨ (8 ≤ k ∧ k ≤ 18) ∨ k = 22 ∨ k = 25 ∨ 28 ≤ k then v.getLsbD k else sr.getLsbD k := by
  rw [srWrite_getLsbD sr v k hk]
  exact if_congr (srWriteMask_getLsbD_iff k hk) rfl rfl

theorem writeCp0_sr (s : State) (v : Word) :
    writeCp0 s 12#5 v = some { s.cp0 with sr := srWrite s.cp0.sr v } := rfl

section
variable {rt : Reg} {s : State} (hu : CopUsable (.mtc0 rt 12#5) s) (hd : s.ld ≠ some rt)
include hu hd

/-- Where MTC0 to SR is not stopped by S6 or CpU, RE is tested first, SwC second, and then the masked write is made. -/
theorem exec_mtc0_sr :
    exec (.mtc0 rt 12#5) s =
      if srRe (s.x rt) then .fault .reverseEndian
      else if srSwc (s.x rt) then .fault .swapCaches
      else .next { s.retire with cp0 := { s.cp0 with sr := srWrite s.cp0.sr (s.x rt) } } := by
  rw [exec_mtc0, execMtc0, reading_free hd, withCop_usable (hu.usable rfl), writeCp0_sr]
  simp

theorem exec_mtc0_sr_of_clear (hre : srRe (s.x rt) = false) (hswc : srSwc (s.x rt) = false) :
    exec (.mtc0 rt 12#5) s =
      .next { s.retire with cp0 := { s.cp0 with sr := srWrite s.cp0.sr (s.x rt) } } := by
  simp [exec_mtc0_sr hu hd, hre, hswc]

theorem exec_mtc0_sr_of_re (hre : srRe (s.x rt) = true) : exec (.mtc0 rt 12#5) s = .fault .reverseEndian := by
  simp [exec_mtc0_sr hu hd, hre]

theorem exec_mtc0_sr_of_swc (hre : srRe (s.x rt) = false) (hswc : srSwc (s.x rt) = true) :
    exec (.mtc0 rt 12#5) s = .fault .swapCaches := by
  simp [exec_mtc0_sr hu hd, hre, hswc]

end

/-- Settles O56: the three outcomes are those of the two tests on rt, and the write is the mask of R258 bit by bit. -/
theorem statusWriteMask : Obligations.StatusWriteMask :=
  fun _ s hu hd =>
    ⟨fun hre hswc => ⟨_, exec_mtc0_sr_of_clear hu hd hre hswc, fun _ hk => srWrite_getLsbD_field s.cp0.sr _ hk⟩,
      exec_mtc0_sr_of_re hu hd, exec_mtc0_sr_of_swc hu hd⟩

end Sys2Proof.Machine
end

section
/-! Where exception entry goes (60_exceptions.md R292): the two vectors that SR.BEV chooses between, and the misses of
translation that are UTLB misses (20_memory.md R80). -/

namespace Sys2Proof.Machine

/-! ## The vector of an exception -/

theorem Exc.isUtlbMiss_iff (e : Exc) : e.isUtlbMiss = true ↔ ∃ va, e ∈ [Exc.tlbl va true, Exc.tlbs va true] := by
  cases e <;> simp [Exc.isUtlbMiss]

theorem vector_of_isUtlbMiss {e : Exc} (h : e.isUtlbMiss = true) (sr : Word) :
    vector sr e = if sr.getLsbD 22 = true then 0xBFC00100#32 else 0x80000000#32 := if_pos h

theorem vector_of_not_isUtlbMiss {e : Exc} (h : ¬e.isUtlbMiss = true) (sr : Word) :
    vector sr e = if sr.getLsbD 22 = true then 0xBFC00180#32 else 0x80000080#32 := if_neg h

/-! ## The TLB exceptions of translation -/

theorem tlbMiss_inj {kind : AccessKind} {va : Word} {r r' : Bool} : tlbMiss kind va r = tlbMiss kind va r' ↔ r = r' := by
  cases kind <;> simp [tlbMiss]

theorem addressError_ne_tlbMiss (kind : AccessKind) (va : Word) (r : Bool) : addressError kind va ≠ tlbMiss kind va r := by
  cases kind <;> simp [addressError, tlbMiss]

theorem mod_ne_tlbMiss (kind : AccessKind) (va : Word) (r : Bool) : Exc.mod va ≠ tlbMiss kind va r := by
  cases kind <;> simp [tlbMiss]

/-- An entry that matches can raise TLBL or TLBS only as invalid, which is no refill. -/
theorem throughEntry_tlbMiss {e : TlbEntry} {va : Word} {kind : AccessKind} {r : Bool}
    (h : throughEntry e va kind = .trap (tlbMiss kind va r)) : r = false := by
  obtain ⟨t, hdone, -⟩ | ⟨hinvalid, -⟩ | ⟨hmod, -⟩ := throughEntry_cases e va kind
  · simp [hdone] at h
  · rw [hinvalid, Access.trap.injEq, tlbMiss_inj] at h
    exact h.symm
  · rw [hmod, Access.trap.injEq] at h
    exact absurd h (mod_ne_tlbMiss kind va r)

/-- The three lengths of the list of hits: none is the refill of a kuseg address, one is no refill, two are no
exception. -/
theorem translateMapped_tlbMiss {s : State} {va : Word} {kind : AccessKind} {r : Bool}
    (h : translateMapped s.tlb s.cp0.entryHi va kind = .trap (tlbMiss kind va r)) :
    r = true ↔ (∀ i, ¬Matches s i va) ∧ va.msb = false := by
  have hmatches := matches_iff s va
  unfold translateMapped at h
  split at h
  case h_1 hnone =>
    rw [Access.trap.injEq, tlbMiss_inj] at h
    simp [hmatches, hnone, ← h]
  case h_2 i hone =>
    have hi : Matches s i va := by simp [hmatches, hone]
    simp only [throughEntry_tlbMiss h, Bool.false_eq_true, false_iff]
    exact fun ⟨hno, _⟩ => hno i hi
  case h_3 => cases h

/-- Only the mapped segments raise TLBL and TLBS: elsewhere translation answers an Address Error or an address
(20_memory.md R78, R79). -/
theorem translateAddress_tlbMiss {s : State} {va : Word} {kind : AccessKind} {r : Bool}
    (h : translateAddress s va kind = .trap (tlbMiss kind va r)) :
    translateMapped s.tlb s.cp0.entryHi va kind = .trap (tlbMiss kind va r) := by
  have hprivilege : s.cp0.sr.getLsbD 1 = false ∨ va.getLsbD 31 = false := by
    by_contra hno
    simp only [not_or, Bool.not_eq_false] at hno
    obtain ⟨huser, habove⟩ := hno
    rw [translateAddress_user kind huser habove, Access.trap.injEq] at h
    exact addressError_ne_tlbMiss kind va r h
  have hmapped : va.extractLsb' 30 2 ≠ 0b10#2 := by
    intro hseg
    have hkernel : s.cp0.sr.getLsbD 1 = false := hprivilege.resolve_right (by simp [getLsbD_31_of_unmapped hseg])
    rw [translateAddress_unmapped kind hkernel hseg] at h
    cases h
  exact (translateAddress_mapped kind hprivilege hmapped).symm.trans h

theorem translateAddress_refill_iff {s : State} {va : Word} {kind : AccessKind} {r : Bool}
    (h : translateAddress s va kind = .trap (tlbMiss kind va r)) :
    r = true ↔ (∀ i, ¬Matches s i va) ∧ va.msb = false :=
  translateMapped_tlbMiss (translateAddress_tlbMiss h)

/-- Settles O13: entry goes to the vector of its exception, and the refill flag of TLBL and TLBS, which chooses the
vector, is that of the lookup. -/
theorem exceptionVectors : Obligations.ExceptionVectors := by
  refine ⟨fun s va e he => ?utlbMiss, fun s e he => ?general, fun s va r h => ?refill, rfl⟩
  case utlbMiss => exact vector_of_isUtlbMiss (e.isUtlbMiss_iff.2 ⟨va, he⟩) s.cp0.sr
  case general =>
    refine vector_of_not_isUtlbMiss (fun hmiss => ?_) s.cp0.sr
    obtain ⟨va, hva⟩ := e.isUtlbMiss_iff.1 hmiss
    exact he va hva
  case refill =>
    obtain hload | hfetch | hstore := h
    · exact translateAddress_refill_iff (kind := .load) hload
    · exact translateAddress_refill_iff (kind := .fetch) hfetch
    · exact translateAddress_refill_iff (kind := .store) hstore

end Sys2Proof.Machine
end

section
/-! Jumps and branches in a delay slot (70_reset_and_hazards.md R334). Step S6 tests the load delay of the sources before
the slot, so in a slot the outcome is one of these two faults. -/

namespace Sys2Proof.Machine

/-- In a delay slot the outcome o of a jump with these sources stops, and only a load delay of a source can make the
fault another one than that of R334. -/
structure FaultsInSlot (sources : List Reg) (s : State) (o : Result State) : Prop where
  stops : ∃ f, o = .fault f
  ofR334 : (∀ r ∈ sources, s.ld ≠ some r) → o = .fault .branchInDelaySlot

theorem FaultsInSlot.outsideSlot {s : State} (hslot : s.slot = true) (k : Result State) :
    FaultsInSlot [] s (outsideSlot s k) where
  stops := ⟨_, outsideSlot_inside hslot k⟩
  ofR334 _ := outsideSlot_inside hslot k

/-- The check of one more source keeps the rule, whatever it answers. -/
theorem FaultsInSlot.reading {sources : List Reg} {s : State} {r : Reg} {k : Result State}
    (h : FaultsInSlot sources s k) : FaultsInSlot (r :: sources) s (reading s r k) where
  stops := by
    by_cases hd : s.ld = some r
    · exact ⟨_, reading_delayed hd k⟩
    · rw [reading_free hd]
      exact h.stops
  ofR334 hfree := by
    obtain ⟨hr, hsources⟩ := List.forall_mem_cons.1 hfree
    rw [reading_free hr]
    exact h.ofR334 hsources

/-- The operand check of a linking form comes before step S6 and lets it through (45_jump_branch.md R227). -/
theorem FaultsInSlot.operandsOk {sources : List Reg} {s : State} {o refusal : Result State} {ok : Bool}
    (h : FaultsInSlot sources s o) (hok : ok = true) : FaultsInSlot sources s (if ok then o else refusal) := by
  rwa [if_pos hok]

/-- The cases are the checks a jump makes: of its link operand, of no, one or two sources, and of the slot. -/
theorem exec_jump_faultsInSlot {i : Instr} {s : State} (hjump : isJump i = true) (hwf : i.wf = true)
    (hslot : s.slot = true) : FaultsInSlot (delayedSources i) s (exec i s) := by
  have hcheck (k : Result State) := FaultsInSlot.outsideSlot hslot k
  cases i with
  | j | jal | bc0f | bc0t | bc1f | bc1t | bc2f | bc2t | bc3f | bc3t => exact hcheck _
  | jr | blez | bgtz | bltz | bgez => exact (hcheck _).reading
  | jalr | bltzal | bgezal => exact (hcheck _).reading.operandsOk hwf
  | beq | bne => exact (hcheck _).reading.reading
  | _ => cases hjump

/-- Settles O42: every jump in a delay slot stops in the checks of step S6, at R334 unless a load delay of a source comes
first. -/
theorem jumpInDelaySlotFaults : Obligations.JumpInDelaySlotFaults := by
  intro i s hjump hwf hslot
  obtain ⟨hstops, hR334⟩ := exec_jump_faultsInSlot hjump hwf hslot
  exact ⟨hstops, hR334⟩

end Sys2Proof.Machine
end

section
/-! The decoder and the encoder are inverse to each other on well-formed instructions and accepted words
(30_encoding.md R101 to R117). -/

namespace Sys2Proof

open Laws

/-- Settles O1: one lemma for each constructor. -/
theorem decodeOfEncode : Obligations.DecodeOfEncode := fun i =>
  match i with
    | .lb .. => DecodeEncode.lb _ _ _ | .lh .. => DecodeEncode.lh _ _ _ | .lwl .. => DecodeEncode.lwl _ _ _
    | .lw .. => DecodeEncode.lw _ _ _ | .lbu .. => DecodeEncode.lbu _ _ _ | .lhu .. => DecodeEncode.lhu _ _ _
    | .lwr .. => DecodeEncode.lwr _ _ _ | .sb .. => DecodeEncode.sb _ _ _ | .sh .. => DecodeEncode.sh _ _ _
    | .swl .. => DecodeEncode.swl _ _ _ | .sw .. => DecodeEncode.sw _ _ _ | .swr .. => DecodeEncode.swr _ _ _
    | .addi .. => DecodeEncode.addi _ _ _ | .addiu .. => DecodeEncode.addiu _ _ _
    | .slti .. => DecodeEncode.slti _ _ _ | .sltiu .. => DecodeEncode.sltiu _ _ _
    | .andi .. => DecodeEncode.andi _ _ _ | .ori .. => DecodeEncode.ori _ _ _ | .xori .. => DecodeEncode.xori _ _ _
    | .lui .. => DecodeEncode.lui _ _ | .add .. => DecodeEncode.add _ _ _ | .addu .. => DecodeEncode.addu _ _ _
    | .sub .. => DecodeEncode.sub _ _ _ | .subu .. => DecodeEncode.subu _ _ _ | .and .. => DecodeEncode.and _ _ _
    | .or .. => DecodeEncode.or _ _ _ | .xor .. => DecodeEncode.xor _ _ _ | .nor .. => DecodeEncode.nor _ _ _
    | .slt .. => DecodeEncode.slt _ _ _ | .sltu .. => DecodeEncode.sltu _ _ _ | .sll .. => DecodeEncode.sll _ _ _
    | .srl .. => DecodeEncode.srl _ _ _ | .sra .. => DecodeEncode.sra _ _ _ | .sllv .. => DecodeEncode.sllv _ _ _
    | .srlv .. => DecodeEncode.srlv _ _ _ | .srav .. => DecodeEncode.srav _ _ _ | .mult .. => DecodeEncode.mult _ _
    | .multu .. => DecodeEncode.multu _ _ | .div .. => DecodeEncode.div _ _ | .divu .. => DecodeEncode.divu _ _
    | .mfhi .. => DecodeEncode.mfhi _ | .mthi .. => DecodeEncode.mthi _ | .mflo .. => DecodeEncode.mflo _
    | .mtlo .. => DecodeEncode.mtlo _ | .j .. => DecodeEncode.j _ | .jal .. => DecodeEncode.jal _
    | .jr .. => DecodeEncode.jr _ | .jalr .. => DecodeEncode.jalr _ _ | .beq .. => DecodeEncode.beq _ _ _
    | .bne .. => DecodeEncode.bne _ _ _ | .blez .. => DecodeEncode.blez _ _ | .bgtz .. => DecodeEncode.bgtz _ _
    | .bltz .. => DecodeEncode.bltz _ _ | .bgez .. => DecodeEncode.bgez _ _ | .bltzal .. => DecodeEncode.bltzal _ _
    | .bgezal .. => DecodeEncode.bgezal _ _ | .syscall .. => DecodeEncode.syscall _ | .brk .. => DecodeEncode.brk _
    | .lwc0 .. => DecodeEncode.lwc0 _ _ _ | .lwc1 .. => DecodeEncode.lwc1 _ _ _ | .lwc2 .. => DecodeEncode.lwc2 _ _ _
    | .lwc3 .. => DecodeEncode.lwc3 _ _ _ | .swc0 .. => DecodeEncode.swc0 _ _ _ | .swc1 .. => DecodeEncode.swc1 _ _ _
    | .swc2 .. => DecodeEncode.swc2 _ _ _ | .swc3 .. => DecodeEncode.swc3 _ _ _ | .mfc0 .. => DecodeEncode.mfc0 _ _
    | .cfc0 .. => DecodeEncode.cfc0 _ _ | .mtc0 .. => DecodeEncode.mtc0 _ _ | .ctc0 .. => DecodeEncode.ctc0 _ _
    | .bc0f .. => DecodeEncode.bc0f _ | .bc0t .. => DecodeEncode.bc0t _ | .mfc1 .. => DecodeEncode.mfc1 _ _
    | .cfc1 .. => DecodeEncode.cfc1 _ _ | .mtc1 .. => DecodeEncode.mtc1 _ _ | .ctc1 .. => DecodeEncode.ctc1 _ _
    | .bc1f .. => DecodeEncode.bc1f _ | .bc1t .. => DecodeEncode.bc1t _ | .mfc2 .. => DecodeEncode.mfc2 _ _
    | .cfc2 .. => DecodeEncode.cfc2 _ _ | .mtc2 .. => DecodeEncode.mtc2 _ _ | .ctc2 .. => DecodeEncode.ctc2 _ _
    | .bc2f .. => DecodeEncode.bc2f _ | .bc2t .. => DecodeEncode.bc2t _ | .mfc3 .. => DecodeEncode.mfc3 _ _
    | .cfc3 .. => DecodeEncode.cfc3 _ _ | .mtc3 .. => DecodeEncode.mtc3 _ _ | .ctc3 .. => DecodeEncode.ctc3 _ _
    | .bc3f .. => DecodeEncode.bc3f _ | .bc3t .. => DecodeEncode.bc3t _ | .tlbr => DecodeEncode.tlbr
    | .tlbwi => DecodeEncode.tlbwi | .tlbwr => DecodeEncode.tlbwr | .tlbp => DecodeEncode.tlbp
    | .rfe => DecodeEncode.rfe | .cop1 .. => DecodeEncode.cop1 _ | .cop2 .. => DecodeEncode.cop2 _
    | .cop3 .. => DecodeEncode.cop3 _ | .reserved .. => DecodeEncode.reserved _

/-! ## A word is made of its fields -/

theorem word_eq_encodeI (w : Word) : encodeI (opOf w) (rsOf w) (rtOf w) (immOf w) = w := by
  have := w.isLt
  apply BitVec.eq_of_toNat_eq
  simp only [encodeI, opOf, rsOf, rtOf, immOf, Machine.toNat_append_add, BitVec.extractLsb'_toNat,
    Nat.shiftRight_eq_div_pow]
  omega

theorem word_eq_encodeR {w : Word} (h : (opOf w).toNat = 0) :
    encodeR (rsOf w) (rtOf w) (rdOf w) (shamtOf w) (functOf w) = w := by
  have := w.isLt
  apply BitVec.eq_of_toNat_eq
  simp only [encodeR, opOf, rsOf, rtOf, rdOf, shamtOf, functOf, Machine.toNat_append_add, BitVec.extractLsb'_toNat,
    Nat.shiftRight_eq_div_pow, BitVec.toNat_ofNat] at h ⊢
  omega

theorem word_eq_encodeMove {w : Word} (h : w.extractLsb' 0 11 = 0#11) :
    encodeMove (opOf w) (rsOf w) (rtOf w) (rdOf w) = w := by
  have := w.isLt
  have h := congrArg BitVec.toNat h
  apply BitVec.eq_of_toNat_eq
  simp only [encodeMove, opOf, rsOf, rtOf, rdOf, Machine.toNat_append_add, BitVec.extractLsb'_toNat,
    Nat.shiftRight_eq_div_pow, BitVec.toNat_ofNat] at h ⊢
  omega

theorem word_eq_encodeJ (w : Word) : opOf w ++ targetOf w = w := by
  have := w.isLt
  apply BitVec.eq_of_toNat_eq
  simp only [opOf, targetOf, Machine.toNat_append_add, BitVec.extractLsb'_toNat, Nat.shiftRight_eq_div_pow]
  omega

theorem word_eq_encodeTrap {w : Word} (h : (opOf w).toNat = 0) : 0#6 ++ codeOf w ++ functOf w = w := by
  have := w.isLt
  apply BitVec.eq_of_toNat_eq
  simp only [opOf, codeOf, functOf, Machine.toNat_append_add, BitVec.extractLsb'_toNat,
    Nat.shiftRight_eq_div_pow, BitVec.toNat_ofNat] at h ⊢
  omega

theorem word_eq_encodeOp (w : Word) : opOf w ++ coOf w ++ cofunOf w = w := by
  have := w.isLt
  apply BitVec.eq_of_toNat_eq
  simp only [opOf, coOf, cofunOf, Machine.toNat_append_add, BitVec.extractLsb'_toNat, Nat.shiftRight_eq_div_pow]
  omega

/-- The operation form of coprocessor 0 with its unused bits zero. -/
theorem word_eq_encodeCop0Op {w : Word} (hco : coOf w = 1#1) (h : w.extractLsb' 6 19 = 0#19) :
    opOf w ++ 1#1 ++ 0#19 ++ functOf w = w := by
  have := w.isLt
  have hco := congrArg BitVec.toNat hco
  have h := congrArg BitVec.toNat h
  apply BitVec.eq_of_toNat_eq
  simp only [opOf, coOf, functOf, Machine.toNat_append_add, BitVec.extractLsb'_toNat, Nat.shiftRight_eq_div_pow,
    BitVec.toNat_ofNat] at hco h ⊢
  omega

/-- A field whose value is the number n is the constant of that number. -/
theorem eq_ofNat_of_toNat {n k : Nat} {f : BitVec n} (h : f.toNat = k) : f = BitVec.ofNat n k := by
  rw [← h, BitVec.ofNat_toNat, BitVec.setWidth_eq]

/-! ## What an accepted word decodes to -/

/-- An answer of the decoder for w is faithful when an accepted instruction is well-formed and has w as its word. -/
def Faithful (w : Word) (r : Except DecodeError Instr) : Prop := ∀ i, r = .ok i → i.wf = true ∧ encode i = w

theorem Faithful.error (w : Word) (e : DecodeError) : Faithful w (.error e) := fun _ h => by cases h

theorem Faithful.ok {w : Word} {i : Instr} (hwf : i.wf = true) (h : encode i = w) : Faithful w (.ok i) := by
  rintro _ ⟨⟩
  exact ⟨hwf, h⟩

theorem Faithful.ite {w : Word} {c : Prop} [Decidable c] {r r' : Except DecodeError Instr} (h : c → Faithful w r)
    (h' : ¬c → Faithful w r') : Faithful w (if c then r else r') := by
  split
  · exact h ‹_›
  · exact h' ‹_›

theorem Faithful.canonical {w : Word} {c : Bool} {i : Instr} (hwf : i.wf = true) (h : c = true → encode i = w) :
    Faithful w (canonical c i) := .ite (fun hc => .ok hwf (h hc)) (fun _ => .error w _)

theorem Faithful.accepted {w : Word} {c : Bool} {e : DecodeError} {i : Instr} (hwf : c = true → i.wf = true)
    (h : encode i = w) : Faithful w (accepted c e i) := .ite (fun hc => .ok (hwf hc) h) (fun _ => .error w _)

/-- A SPECIAL word is accepted with its unused fields zero, and then has all its fields in the instruction. -/
theorem Faithful.special {w : Word} {c : Bool} {i : Instr} (hop : (opOf w).toNat = 0) (hwf : i.wf = true)
    (h : c = true → encode i = encodeR (rsOf w) (rtOf w) (rdOf w) (shamtOf w) (functOf w)) :
    Faithful w (Sys2Proof.canonical c i) :=
  .canonical hwf fun hc => (h hc).trans (word_eq_encodeR hop)

theorem decodeSpecial_faithful {w : Word} (hop : (opOf w).toNat = 0) :
    Faithful w (decodeSpecial (functOf w).toNat (rsOf w) (rtOf w) (rdOf w) (shamtOf w) w) := by
  by_cases hna : (functOf w).toNat ∈ naSecondary
  · rw [decodeSpecial_reserved hna]
    exact .ok ((isReservedWord_iff w).2 (.inr ⟨hop, hna⟩)) rfl
  unfold decodeSpecial
  split
  case h_8 hf =>
    refine .ite (fun hz => .accepted id ?_) fun _ => .error w _
    simp only [Bool.and_eq_true, beq_iff_eq] at hz
    simpa [encode, eq_ofNat_of_toNat hf, hz] using word_eq_encodeR hop
  case h_9 hf | h_10 hf =>
    refine .ok rfl ?_
    simpa [encode, eq_ofNat_of_toNat hf] using word_eq_encodeTrap hop
  case h_29 =>
    have := (functOf w).isLt
    rw [mem_naSecondary_iff this] at hna
    simp only [imp_false] at *
    omega
  all_goals
    rename_i hf
    refine .special hop rfl fun hz => ?_
    simp only [Bool.and_eq_true, beq_iff_eq] at hz
    simp [encode, eq_ofNat_of_toNat hf, hz]

theorem decodeBcond_faithful {w : Word} (hop : opOf w = 0x01#6) :
    Faithful w (decodeBcond (rtOf w).toNat (rsOf w) (immOf w)) := by
  have hword := word_eq_encodeI w
  rw [hop] at hword
  unfold decodeBcond
  split
  case h_1 hrt | h_2 hrt => exact .ok rfl (by simpa [encode, eq_ofNat_of_toNat hrt] using hword)
  case h_3 hrt | h_4 hrt => exact .accepted id (by simpa [encode, eq_ofNat_of_toNat hrt] using hword)
  case h_5 => exact .error w _

theorem decodeCop0Op_faithful {w : Word} (hop : opOf w = 0x10#6) (hco : coOf w = 1#1) :
    Faithful w (decodeCop0Op w) := by
  unfold decodeCop0Op
  split
  case h_6 => exact .error w _
  all_goals
    rename_i hf
    refine .canonical rfl fun hz => ?_
    have hword := word_eq_encodeCop0Op hco (beq_iff_eq.1 hz)
    rw [hop, eq_ofNat_of_toNat hf] at hword
    exact hword

/-- The instruction is well-formed and w is its word. -/
def IsWordOf (w : Word) (i : Instr) : Prop := i.wf = true ∧ encode i = w

/-- The six listed forms of a coprocessor are encoded under its op (30_encoding.md R106, R114). -/
structure CopForms (op : BitVec 6) (mf cf mt ct : Reg → Reg → Instr) (bf bt : Half → Instr) : Prop where
  mf (rt rd : Reg) : IsWordOf (encodeMove op 0x00#5 rt rd) (mf rt rd)
  cf (rt rd : Reg) : IsWordOf (encodeMove op 0x02#5 rt rd) (cf rt rd)
  mt (rt rd : Reg) : IsWordOf (encodeMove op 0x04#5 rt rd) (mt rt rd)
  ct (rt rd : Reg) : IsWordOf (encodeMove op 0x06#5 rt rd) (ct rt rd)
  bf (imm : Half) : IsWordOf (encodeI op 0x08#5 0x00#5 imm) (bf imm)
  bt (imm : Half) : IsWordOf (encodeI op 0x08#5 0x01#5 imm) (bt imm)

theorem faithful_move {w : Word} {sub : Nat} {i : Instr} (hsub : (rsOf w).toNat = sub)
    (hi : IsWordOf (encodeMove (opOf w) (BitVec.ofNat 5 sub) (rtOf w) (rdOf w)) i) :
    Faithful w (canonical (w.extractLsb' 0 11 == 0#11) i) := by
  obtain ⟨hwf, henc⟩ := hi
  rw [← eq_ofNat_of_toNat hsub] at henc
  exact .canonical hwf fun hz => henc.trans (word_eq_encodeMove (beq_iff_eq.1 hz))

theorem faithful_copBranch {w : Word} {rt : Nat} {i : Instr} (hsub : (rsOf w).toNat = 0x08)
    (hrt : (rtOf w).toNat = rt) (hi : IsWordOf (encodeI (opOf w) 0x08#5 (BitVec.ofNat 5 rt) (immOf w)) i) :
    Faithful w (.ok i) := by
  obtain ⟨hwf, henc⟩ := hi
  rw [← eq_ofNat_of_toNat hrt, ← eq_ofNat_of_toNat hsub] at henc
  exact .ok hwf (henc.trans (word_eq_encodeI w))

theorem decodeCop_faithful {w : Word} {z : BitVec 2} {mf cf mt ct : Reg → Reg → Instr} {bf bt : Half → Instr}
    {o : Except DecodeError Instr} (hforms : CopForms (opOf w) mf cf mt ct bf bt) (ho : coOf w = 1#1 → Faithful w o) :
    Faithful w (decodeCop z mf cf mt ct bf bt o (rsOf w).toNat (rtOf w).toNat w) := by
  unfold decodeCop
  split
  case h_1 hsub => exact faithful_move hsub (hforms.mf _ _)
  case h_2 hsub => exact faithful_move hsub (hforms.cf _ _)
  case h_3 hsub => exact faithful_move hsub (hforms.mt _ _)
  case h_4 hsub => exact faithful_move hsub (hforms.ct _ _)
  case h_5 hsub =>
    split
    case h_1 hrt => exact faithful_copBranch hsub hrt (hforms.bf _)
    case h_2 hrt => exact faithful_copBranch hsub hrt (hforms.bt _)
    case h_3 => exact .error w _
  case h_6 => exact .ite (fun hco => ho (beq_iff_eq.1 hco)) fun _ => .error w _

theorem copForms_z0 : CopForms 0x10#6 .mfc0 .cfc0 .mtc0 .ctc0 .bc0f .bc0t := by constructor <;> intros <;> exact ⟨rfl, rfl⟩
theorem copForms_z1 : CopForms 0x11#6 .mfc1 .cfc1 .mtc1 .ctc1 .bc1f .bc1t := by constructor <;> intros <;> exact ⟨rfl, rfl⟩
theorem copForms_z2 : CopForms 0x12#6 .mfc2 .cfc2 .mtc2 .ctc2 .bc2f .bc2t := by constructor <;> intros <;> exact ⟨rfl, rfl⟩
theorem copForms_z3 : CopForms 0x13#6 .mfc3 .cfc3 .mtc3 .ctc3 .bc3f .bc3t := by constructor <;> intros <;> exact ⟨rfl, rfl⟩

/-- The operation form of coprocessors 1 to 3 (30_encoding.md R106). -/
theorem faithful_copOp {w : Word} {i : Instr} (hi : IsWordOf (opOf w ++ 1#1 ++ cofunOf w) i) (hco : coOf w = 1#1) :
    Faithful w (.ok i) := by
  obtain ⟨hwf, henc⟩ := hi
  rw [← hco] at henc
  exact .ok hwf (henc.trans (word_eq_encodeOp w))

theorem decode_faithful (w : Word) : Faithful w (decode w) := by
  by_cases hna : isReservedWord w = true
  · rw [decode_reserved w hna]
    exact .ok hna rfl
  have hI := word_eq_encodeI w
  have hJ := word_eq_encodeJ w
  unfold decode decodePrimary
  split
  case h_1 hop => exact decodeSpecial_faithful hop
  case h_2 hop => exact decodeBcond_faithful (eq_ofNat_of_toNat hop)
  case h_3 hop | h_4 hop =>
    rw [eq_ofNat_of_toNat hop] at hJ
    exact .ok rfl hJ
  case h_7 hop | h_8 hop | h_16 hop =>
    rw [eq_ofNat_of_toNat hop] at hI
    exact .canonical rfl fun hz => by simpa [encode, beq_iff_eq.1 hz] using hI
  case h_17 hop =>
    have hop := eq_ofNat_of_toNat hop
    exact decodeCop_faithful (hop ▸ copForms_z0) (decodeCop0Op_faithful hop)
  case h_18 hop =>
    have hop := eq_ofNat_of_toNat hop
    exact decodeCop_faithful (hop ▸ copForms_z1) (faithful_copOp (hop ▸ ⟨rfl, rfl⟩))
  case h_19 hop =>
    have hop := eq_ofNat_of_toNat hop
    exact decodeCop_faithful (hop ▸ copForms_z2) (faithful_copOp (hop ▸ ⟨rfl, rfl⟩))
  case h_20 hop =>
    have hop := eq_ofNat_of_toNat hop
    exact decodeCop_faithful (hop ▸ copForms_z3) (faithful_copOp (hop ▸ ⟨rfl, rfl⟩))
  case h_41 =>
    have := (opOf w).isLt
    rw [isReservedWord_iff, mem_naPrimary_iff (BitVec.isLt _)] at hna
    simp only [opOf, imp_false] at *
    omega
  all_goals
    rename_i hop
    rw [eq_ofNat_of_toNat hop] at hI
    exact .ok rfl hI

/-- Settles O2: each arm of the maps keeps every bit of the word in the operands or requires it to be zero. -/
theorem encodeOfDecode : Obligations.EncodeOfDecode := decode_faithful

/-- Settles O4, by evaluating the decoder. -/
theorem sampleWordsDecode : Obligations.SampleWordsDecode := by
  unfold Obligations.SampleWordsDecode
  decide

/-! ## The words that are rejected -/

theorem decode_special {w : Word} (hop : opOf w = 0x00#6) :
    decode w = decodeSpecial (functOf w).toNat (rsOf w) (rtOf w) (rdOf w) (shamtOf w) w := by
  rw [decode, hop]; rfl

theorem decode_bcond {w : Word} (hop : opOf w = 0x01#6) :
    decode w = decodeBcond (rtOf w).toNat (rsOf w) (immOf w) := by
  rw [decode, hop]; rfl

theorem decode_cop0 {w : Word} (hop : opOf w = 0x10#6) :
    decode w = decodeCop 0#2 .mfc0 .cfc0 .mtc0 .ctc0 .bc0f .bc0t (decodeCop0Op w) (rsOf w).toNat (rtOf w).toNat w := by
  rw [decode, hop]; rfl

theorem decode_cop0Op {w : Word} (hop : opOf w = 0x10#6) (hco : coOf w = 1#1) : decode w = decodeCop0Op w :=
  (decode_cop0 hop).trans (decodeCop_op hco rfl)

/-- The words of coprocessor z are decoded by its forms (30_encoding.md R114). -/
theorem decode_cop {w : Word} {z : BitVec 2} (hop : opOf w = 0b0100#4 ++ z) :
    ∃ mf cf mt ct bf bt o, decode w = decodeCop z mf cf mt ct bf bt o (rsOf w).toNat (rtOf w).toNat w := by
  rw [decode, hop]
  match z with
  | 0#2 | 1#2 | 2#2 | 3#2 => exact ⟨_, _, _, _, _, _, _, rfl⟩

theorem canonical_rejects {c : Bool} (i : Instr) (h : c ≠ true) : canonical c i = .error .unusedField := if_neg h

theorem decodeBcond_unlisted {rt : Reg} (h : rt ∉ [0x00#5, 0x01#5, 0x10#5, 0x11#5]) (rs : Reg) (imm : Half) :
    decodeBcond rt.toNat rs imm = .error .bcondZ := by
  unfold decodeBcond
  split
  case h_5 => rfl
  all_goals
    rename_i hrt
    simp [eq_ofNat_of_toNat hrt] at h

theorem decodeBcond_link31 {rt : Reg} (h : rt ∈ [0x10#5, 0x11#5]) (imm : Half) :
    decodeBcond rt.toNat 31#5 imm = .error .linkBranchOn31 := by
  simp only [List.mem_cons, List.not_mem_nil, or_false] at h
  obtain rfl | rfl := h <;> rfl

section
variable {z : BitVec 2} {mf cf mt ct : Reg → Reg → Instr} {bf bt : Half → Instr} {o : Except DecodeError Instr} {w : Word}

theorem decodeCop_unlisted (hco : coOf w = 0#1)
    (h : rsOf w ∉ [0x00#5, 0x02#5, 0x04#5, 0x06#5, 0x08#5] ∨ (rsOf w = 0x08#5 ∧ rtOf w ∉ [0x00#5, 0x01#5])) :
    decodeCop z mf cf mt ct bf bt o (rsOf w).toNat (rtOf w).toNat w = .error (.copSub z) := by
  unfold decodeCop
  split
  case h_1 hsub | h_2 hsub | h_3 hsub | h_4 hsub => simp [eq_ofNat_of_toNat hsub] at h
  case h_5 hsub =>
    split
    case h_1 hrt | h_2 hrt => simp [eq_ofNat_of_toNat hsub, eq_ofNat_of_toNat hrt] at h
    case h_3 => rfl
  case h_6 => rw [hco]; rfl

theorem decodeCop_move_unused (hsub : rsOf w ∈ [0x00#5, 0x02#5, 0x04#5, 0x06#5]) (h : w.extractLsb' 0 11 ≠ 0#11) :
    decodeCop z mf cf mt ct bf bt o (rsOf w).toNat (rtOf w).toNat w = .error .unusedField := by
  simp only [List.mem_cons, List.not_mem_nil, or_false] at hsub
  obtain hsub | hsub | hsub | hsub := hsub <;> rw [hsub] <;> exact canonical_rejects _ (by simpa using h)

end

theorem decodeCop0Op_unlisted {w : Word} (h : functOf w ∉ [0x01#6, 0x02#6, 0x06#6, 0x08#6, 0x10#6]) :
    decodeCop0Op w = .error .cop0Function := by
  unfold decodeCop0Op
  split
  case h_6 => rfl
  all_goals
    rename_i hf
    simp [eq_ofNat_of_toNat hf] at h

theorem decodeCop0Op_unused {w : Word} (hf : functOf w ∈ [0x01#6, 0x02#6, 0x06#6, 0x08#6, 0x10#6])
    (h : w.extractLsb' 6 19 ≠ 0#19) : decodeCop0Op w = .error .unusedField := by
  simp only [List.mem_cons, List.not_mem_nil, or_false] at hf
  unfold decodeCop0Op
  obtain hf | hf | hf | hf | hf := hf <;> rw [hf] <;> exact canonical_rejects _ (by simpa using h)

/-- Where an arm of the secondary map requires c of the unused fields, c false rejects the word. -/
theorem decodeSpecial_unused {rs rt rd : Reg} {sh : BitVec 5} {w : Word} {l : List (BitVec 6)} {c : Bool}
    (harm : ∀ f ∈ l, ∃ i, decodeSpecial f.toNat rs rt rd sh w = canonical c i) {f : BitVec 6} (hf : f ∈ l)
    (hc : c ≠ true) : decodeSpecial f.toNat rs rt rd sh w = .error .unusedField := by
  obtain ⟨i, hi⟩ := harm f hf
  exact hi.trans (canonical_rejects i hc)

/-- The unused fields of the SPECIAL forms (30_encoding.md R117). -/
theorem decodeSpecial_arms (rs rt rd : Reg) (sh : BitVec 5) (w : Word) :
    (∀ f ∈ [0x00#6, 0x02#6, 0x03#6], ∃ i, decodeSpecial f.toNat rs rt rd sh w = canonical (rs == 0#5) i) ∧
    (∀ f ∈ [0x04#6, 0x06#6, 0x07#6, 0x20#6, 0x21#6, 0x22#6, 0x23#6, 0x24#6, 0x25#6, 0x26#6, 0x27#6, 0x2A#6, 0x2B#6],
      ∃ i, decodeSpecial f.toNat rs rt rd sh w = canonical (sh == 0#5) i) ∧
    (∀ f ∈ [0x08#6, 0x11#6, 0x13#6],
      ∃ i, decodeSpecial f.toNat rs rt rd sh w = canonical (rt == 0#5 && rd == 0#5 && sh == 0#5) i) ∧
    (∀ f ∈ [0x10#6, 0x12#6],
      ∃ i, decodeSpecial f.toNat rs rt rd sh w = canonical (rs == 0#5 && rt == 0#5 && sh == 0#5) i) ∧
    ∀ f ∈ [0x18#6, 0x19#6, 0x1A#6, 0x1B#6],
      ∃ i, decodeSpecial f.toNat rs rt rd sh w = canonical (rd == 0#5 && sh == 0#5) i := by
  simp only [List.forall_mem_cons, List.not_mem_nil, false_imp_iff, implies_true, and_true]
  repeat' constructor

/-- Settles O5: each kind of word falls to the last arm of its map, or fails the test of its arm. -/
theorem unlistedWordsRejected : Obligations.UnlistedWordsRejected := by
  intro w
  refine ⟨fun hop hrt => ?bcond, fun z hop hco h => ?copSub, fun hop hco hf => ?cop0, fun hop => ?special,
    fun hop hrt hrs => ?link31, fun hop hrt => ?branchZero, fun hop hrs => ?lui, fun hop hsub h => ?move,
    fun hop hco hf h => ?cop0Unused⟩
  case bcond => rw [decode_bcond hop, decodeBcond_unlisted hrt]
  case copSub =>
    obtain ⟨mf, cf, mt, ct, bf, bt, o, hdec⟩ := decode_cop hop
    rw [hdec, decodeCop_unlisted hco h]
  case cop0 => rw [decode_cop0Op hop hco, decodeCop0Op_unlisted hf]
  case special =>
    rw [decode_special hop]
    obtain ⟨hrs, hsh, hrtRdSh, hrsRtSh, hrdSh⟩ := decodeSpecial_arms (rsOf w) (rtOf w) (rdOf w) (shamtOf w) w
    refine ⟨fun hf h => ?_, fun hf h => ?_, fun hf h => ?_, fun hf h => ?_, fun hf hrt hshamt heq hrd => ?_, fun hf h => ?_,
      fun hf h => ?_⟩
    · exact decodeSpecial_unused hrs hf (by simpa using h)
    · exact decodeSpecial_unused hsh hf (by simpa using h)
    · exact decodeSpecial_unused hrtRdSh hf (by simpa [imp_iff_not_or, or_assoc] using h)
    · rw [hf]
      exact if_neg (by simpa [imp_iff_not_or] using h)
    · rw [hf, hrt, hshamt, heq]
      exact if_neg (by simp [Machine.jalrOperandsOk_iff, hrd])
    · exact decodeSpecial_unused hrsRtSh hf (by simpa [imp_iff_not_or, or_assoc] using h)
    · exact decodeSpecial_unused hrdSh hf (by simpa [imp_iff_not_or] using h)
  case link31 => rw [decode_bcond hop, hrs, decodeBcond_link31 hrt]
  case branchZero =>
    simp only [List.mem_cons, List.not_mem_nil, or_false] at hop
    obtain hop | hop := hop <;> rw [decode, hop] <;> exact canonical_rejects _ (by simpa using hrt)
  case lui =>
    rw [decode, hop]
    exact canonical_rejects _ (by simpa using hrs)
  case move =>
    have hz : ∃ z : BitVec 2, opOf w = 0b0100#4 ++ z := by
      simp only [List.mem_cons, List.not_mem_nil, or_false] at hop
      obtain hop | hop | hop | hop := hop
      · exact ⟨0#2, hop⟩
      · exact ⟨1#2, hop⟩
      · exact ⟨2#2, hop⟩
      · exact ⟨3#2, hop⟩
    obtain ⟨z, hz⟩ := hz
    obtain ⟨mf, cf, mt, ct, bf, bt, o, hdec⟩ := decode_cop hz
    rw [hdec, decodeCop_move_unused hsub h]
  case cop0Unused => rw [decode_cop0Op hop hco, decodeCop0Op_unused hf h]

end Sys2Proof
end

section
/-! All that an instruction can do where it answers a next state, once for the 99 meanings: the statements about the
whole machine are derived from this list (10_state.md R28, R61; 60_exceptions.md R271). -/

namespace Sys2Proof.Machine

/-! ## The meanings that give a shape a function of the operands -/


theorem exec_addiu (rt rs : Reg) (imm : Half) (s : State) :
    exec (.addiu rt rs imm) s = computeUnary rt rs (fun a => a + signExtImm imm) s := rfl

theorem exec_slti (rt rs : Reg) (imm : Half) (s : State) :
    exec (.slti rt rs imm) s = computeUnary rt rs (fun a => setLessSigned a (signExtImm imm)) s := rfl

theorem exec_sltiu (rt rs : Reg) (imm : Half) (s : State) :
    exec (.sltiu rt rs imm) s = computeUnary rt rs (fun a => setLessUnsigned a (signExtImm imm)) s := rfl

theorem exec_andi (rt rs : Reg) (imm : Half) (s : State) :
    exec (.andi rt rs imm) s = computeUnary rt rs (fun a => a &&& zeroExtImm imm) s := rfl

theorem exec_ori (rt rs : Reg) (imm : Half) (s : State) :
    exec (.ori rt rs imm) s = computeUnary rt rs (fun a => a ||| zeroExtImm imm) s := rfl

theorem exec_xori (rt rs : Reg) (imm : Half) (s : State) :
    exec (.xori rt rs imm) s = computeUnary rt rs (fun a => a ^^^ zeroExtImm imm) s := rfl

theorem exec_sll (rd rt : Reg) (shamt : BitVec 5) (s : State) :
    exec (.sll rd rt shamt) s = computeUnary rd rt (fun v => v <<< shamt.toNat) s := rfl

theorem exec_srl (rd rt : Reg) (shamt : BitVec 5) (s : State) :
    exec (.srl rd rt shamt) s = computeUnary rd rt (fun v => v >>> shamt.toNat) s := rfl

theorem exec_sra (rd rt : Reg) (shamt : BitVec 5) (s : State) :
    exec (.sra rd rt shamt) s = computeUnary rd rt (fun v => v.sshiftRight shamt.toNat) s := rfl

theorem exec_addu (rd rs rt : Reg) (s : State) :
    exec (.addu rd rs rt) s = computeBinary rd rs rt (fun a b => a + b) s := rfl

theorem exec_subu (rd rs rt : Reg) (s : State) :
    exec (.subu rd rs rt) s = computeBinary rd rs rt (fun a b => a - b) s := rfl

theorem exec_slt (rd rs rt : Reg) (s : State) :
    exec (.slt rd rs rt) s = computeBinary rd rs rt (fun a b => setLessSigned a b) s := rfl

theorem exec_sltu (rd rs rt : Reg) (s : State) :
    exec (.sltu rd rs rt) s = computeBinary rd rs rt (fun a b => setLessUnsigned a b) s := rfl

theorem exec_and (rd rs rt : Reg) (s : State) :
    exec (.and rd rs rt) s = computeBinary rd rs rt (fun a b => a &&& b) s := rfl

theorem exec_or (rd rs rt : Reg) (s : State) :
    exec (.or rd rs rt) s = computeBinary rd rs rt (fun a b => a ||| b) s := rfl

theorem exec_xor (rd rs rt : Reg) (s : State) :
    exec (.xor rd rs rt) s = computeBinary rd rs rt (fun a b => a ^^^ b) s := rfl

theorem exec_nor (rd rs rt : Reg) (s : State) :
    exec (.nor rd rs rt) s = computeBinary rd rs rt (fun a b => ~~~(a ||| b)) s := rfl

theorem exec_sllv (rd rt rs : Reg) (s : State) :
    exec (.sllv rd rt rs) s = computeBinary rd rt rs (fun v n => v <<< shiftAmount n) s := rfl

theorem exec_srlv (rd rt rs : Reg) (s : State) :
    exec (.srlv rd rt rs) s = computeBinary rd rt rs (fun v n => v >>> shiftAmount n) s := rfl

theorem exec_srav (rd rt rs : Reg) (s : State) :
    exec (.srav rd rt rs) s = computeBinary rd rt rs (fun v n => v.sshiftRight (shiftAmount n)) s := rfl

theorem exec_blez (rs : Reg) (offset : Half) (s : State) :
    exec (.blez rs offset) s = branchZero (fun v => isNegative v || v == 0#32) rs offset s := rfl

theorem exec_bgtz (rs : Reg) (offset : Half) (s : State) :
    exec (.bgtz rs offset) s = branchZero (fun v => !isNegative v && v != 0#32) rs offset s := rfl

theorem exec_bltz (rs : Reg) (offset : Half) (s : State) :
    exec (.bltz rs offset) s = branchZero (fun v => isNegative v) rs offset s := rfl

theorem exec_bgez (rs : Reg) (offset : Half) (s : State) :
    exec (.bgez rs offset) s = branchZero (fun v => !isNegative v) rs offset s := rfl

/-! ## The list -/

/-- The ways in which an instruction gives a next state. -/
inductive Completion (i : Instr) (s : State) : State → Prop where
  /-- An exception, taken in the state before the instruction (60_exceptions.md R271). -/
  | exception (e : Exc) : Completion i s (s.takeException e)
  /-- An SWC2 whose store ends in a bus error, with the read of the coprocessor done (log 14). -/
  | swc2BusError (rt base : Reg) (offset : Half) (hi : i = .swc2 rt base offset) :
      Completion i s ({ s with c2 := (Config.cop2ReadData s.c2 rt).2 }.takeException .dbe)
  /-- A result in a register. -/
  | result (r : Reg) (v : Word) (hjump : isJump i = false) : Completion i s (s.setX r v).retire
  /-- HI or LO or both, by the instructions that write them. -/
  | hiLo (hi lo : Word) (hhi : hi ≠ s.hi → writesHi i = true) (hlo : lo ≠ s.lo → writesLo i = true)
      (hjump : isJump i = false) : Completion i s { s.retire with hi := hi, lo := lo }
  /-- MFHI. -/
  | fromHi (r : Reg) (hjump : isJump i = false) : Completion i s { (s.setX r s.hi).retire with hiAge := 2 }
  /-- MFLO. -/
  | fromLo (r : Reg) (hjump : isJump i = false) : Completion i s { (s.setX r s.lo).retire with loAge := 2 }
  /-- A load, or a move from a coprocessor, with what it leaves of coprocessor 2. -/
  | load (r : Reg) (v : Word) (c : Nat) (hjump : isJump i = false) : Completion i s { s.retireLoad r v with c2 := c }
  /-- A jump or branch. -/
  | transfer (taken : Bool) (target : Word) (hjump : isJump i = true) : Completion i s (s.retireJump taken target)
  /-- A jump or branch with link. -/
  | link (r : Reg) (v : Word) (taken : Bool) (target : Word) (hjump : isJump i = true) :
      Completion i s ((s.setX r v).retireJump taken target)
  /-- The bytes of a store, which stay in one word, with what it leaves of coprocessor 2. -/
  | store (va pa v : Word) (n c : Nat) (hready : StoreReady s va n pa) (hword : va.toNat % 4 + n ≤ 4)
      (hwrites : writesMemory i = true) (hjump : isJump i = false) :
      Completion i s { s.retire with mem := Memory.writeBytes s.mem pa (lowBytes v n)
                                     written := recordWritten s.written (wordAddress pa).toNat
                                     c2 := c }
  /-- An action of coprocessor 2, or none; also a store while the cache is isolated (20_memory.md R91). -/
  | cop2 (c : Nat) (hjump : isJump i = false) : Completion i s { s.retire with c2 := c }
  /-- MTC0, past the two values of SR it stops at. -/
  | mtc0 (rt rd : Reg) (c : Cp0) (hi : i = .mtc0 rt rd) (hu : s.usable 0#2 = true)
      (hre : rd = 12#5 → srRe (s.x rt) = false) (hswc : rd = 12#5 → srSwc (s.x rt) = false)
      (hc : writeCp0 s rd (s.x rt) = some c) : Completion i s { s.retire with cp0 := c }
  /-- TLBR. -/
  | tlbr (n : BitVec 6) (hi : i = .tlbr) (hu : s.usable 0#2 = true) : Completion i s (s.readTlb n).retire
  /-- TLBWI and TLBWR. -/
  | tlbw (n : BitVec 6) (hi : i = .tlbwi ∨ i = .tlbwr) (hu : s.usable 0#2 = true) : Completion i s (s.writeTlb n).retire
  /-- TLBP. -/
  | tlbp (p : BitVec 1) (f : BitVec 6) (hi : i = .tlbp) (hu : s.usable 0#2 = true) :
      Completion i s { s.retire with cp0 := { s.cp0 with index := indexWord p f } }
  /-- RFE. -/
  | rfe (hi : i = .rfe) (hu : s.usable 0#2 = true) : Completion i s s.popStatus.retire

/-! ## The shapes -/

section
variable {i : Instr} {s t : State}

theorem computeUnary_completion {rd rs : Reg} {f : Word → Word} (h : computeUnary rd rs f s = .next t)
    (hj : isJump i = false) : Completion i s t := by
  rw [computeUnary_next h]; exact .result _ _ hj

theorem computeBinary_completion {rd rs rt : Reg} {f : Word → Word → Word} (h : computeBinary rd rs rt f s = .next t)
    (hj : isJump i = false) : Completion i s t := by
  rw [computeBinary_next h]; exact .result _ _ hj

theorem writeOrOverflow_completion {rd : Reg} {r : Option Word} (h : writeOrOverflow rd r s = .next t)
    (hj : isJump i = false) : Completion i s t := by
  obtain ⟨v, -, rfl⟩ | ⟨-, rfl⟩ := writeOrOverflow_next h
  · exact .result _ _ hj
  · exact .exception _

theorem computeHiLo_completion {rs rt : Reg} {f : Word → Word → Word × Word} (h : computeHiLo rs rt f s = .next t)
    (hhi : writesHi i = true) (hlo : writesLo i = true) (hj : isJump i = false) : Completion i s t := by
  rw [computeHiLo_next h]; exact .hiLo _ _ (fun _ => hhi) (fun _ => hlo) hj

theorem branchZero_completion {cond : Word → Bool} {rs : Reg} {offset : Half} (h : branchZero cond rs offset s = .next t)
    (hj : isJump i = true) : Completion i s t := by
  rw [branchZero_next h]; exact .transfer _ _ hj

theorem branchZeroLink_completion {cond : Word → Bool} {rs : Reg} {offset : Half}
    (h : branchZeroLink cond rs offset s = .next t) (hj : isJump i = true) : Completion i s t := by
  rw [branchZeroLink_next h]; exact .link _ _ _ _ hj

theorem loadSized_completion {n : Nat} {ext : Word → Word} {rt base : Reg} {offset : Half}
    (h : loadSized n ext rt base offset s = .next t) (hj : isJump i = false) : Completion i s t := by
  obtain ⟨v, rfl⟩ | ⟨e, rfl⟩ := loadSized_next h
  · exact .load rt v (s.retireLoad rt v).c2 hj
  · exact .exception e

theorem loadMerged_completion {merge : Nat → Word → Word → Word} {rt base : Reg} {offset : Half}
    (h : loadMerged merge rt base offset s = .next t) (hj : isJump i = false) : Completion i s t := by
  obtain ⟨v, rfl⟩ | ⟨e, rfl⟩ := loadMerged_next h
  · exact .load rt v (s.retireLoad rt v).c2 hj
  · exact .exception e

theorem storeBytes_completion {va v : Word} {n : Nat} (h : storeBytes va n v s = .next t)
    (hword : va.toNat % 4 + n ≤ 4) (hw : writesMemory i = true) (hj : isJump i = false) : Completion i s t := by
  obtain ⟨pa, hready, rfl⟩ | rfl | ⟨e, rfl⟩ := storeBytes_next h
  · exact .store va pa v n s.c2 hready hword hw hj
  · exact .cop2 s.c2 hj
  · exact .exception e

theorem storeSized_completion {n : Nat} {rt base : Reg} {offset : Half} (h : storeSized n rt base offset s = .next t)
    (hn : n = 1 ∨ n = 2 ∨ n = 4) (hw : writesMemory i = true) (hj : isJump i = false) : Completion i s t := by
  obtain ⟨h, halign⟩ | ⟨e, rfl⟩ := storeSized_next h
  · exact storeBytes_completion h (by obtain rfl | rfl | rfl := hn <;> omega) hw hj
  · exact .exception e

theorem execSwc2_completion {rt base : Reg} {offset : Half} (h : execSwc2 rt base offset s = .next t) :
    Completion (.swc2 rt base offset) s t := by
  by_cases halign : (effectiveAddress (s.x base) offset).toNat % 4 = 0
  · obtain ⟨pa, hready, rfl⟩ | rfl | ⟨e, rfl⟩ | rfl := execSwc2_next h
    · exact .store _ pa _ 4 _ hready (by omega) rfl rfl
    · exact .cop2 _ rfl
    · exact .exception e
    · obtain hkept | hread := cop2AfterBusError_cases s.c2 rt
      · rw [hkept]; exact .exception .dbe
      · rw [hread]; exact .swc2BusError rt base offset rfl
  · obtain ⟨-, h⟩ | ⟨e, rfl⟩ := copStore_next h
    · exact absurd h halign
    · exact .exception e

/-- An instruction for coprocessor z does what it does when usable, or takes CpU. -/
theorem withCop_completion {z : BitVec 2} {k : Result State} (h : withCop s z k = .next t)
    (hk : s.usable z = true → k = .next t → Completion i s t) : Completion i s t := by
  obtain ⟨hu, h⟩ | ⟨-, rfl⟩ := withCop_next h
  · exact hk hu h
  · exact .exception _

/-- An instruction that stops where its coprocessor is usable can only take CpU. -/
theorem withCop_stop_completion {z : BitVec 2} {k : Result State} (hk : ∀ t, k ≠ .next t) (h : withCop s z k = .next t) :
    Completion i s t :=
  withCop_completion h fun _ h => absurd h (hk t)

theorem copLoad_stop_completion {z : BitVec 2} {base : Reg} {offset : Half} {k : Word → Result State}
    (hk : ∀ v t, k v ≠ .next t) (h : copLoad z base offset s k = .next t) : Completion i s t := by
  obtain ⟨v, h⟩ | ⟨e, rfl⟩ := copLoad_next h
  · exact absurd h (hk v t)
  · exact .exception e

theorem copStore_stop_completion {z : BitVec 2} {base : Reg} {offset : Half} {k : Word → Result State}
    (hk : ∀ v t, k v ≠ .next t) (h : copStore z base offset s k = .next t) : Completion i s t := by
  obtain ⟨h, -⟩ | ⟨e, rfl⟩ := copStore_next h
  · exact absurd h (hk _ t)
  · exact .exception e

end

theorem absent_ne_next (t : State) : absent ≠ .next t := nofun

theorem noPath_ne_next (t : State) : noPath ≠ .next t := nofun

/-! ## The instructions of coprocessor 0 -/

theorem execMtc0_completion {rt rd : Reg} {s t : State} (h : execMtc0 rt rd s = .next t) :
    Completion (.mtc0 rt rd) s t := by
  obtain ⟨-, h⟩ := reading_next h
  refine withCop_completion h fun hu h => ?_
  split at h
  · cases h
  split at h
  · cases h
  next hre hswc =>
    split at h
    · next c hc =>
      cases h
      exact .mtc0 rt rd c rfl hu (fun hrd => by simpa [hrd] using hre) (fun hrd => by simpa [hrd] using hswc) hc
    · cases h

theorem execMfc0_completion {rt rd : Reg} {s t : State} (h : execMfc0 rt rd s = .next t) :
    Completion (.mfc0 rt rd) s t := by
  refine withCop_completion h fun _ h => ?_
  split at h
  · cases h
    exact .load rt _ (s.retireLoad rt _).c2 rfl
  · cases h

theorem execTlbp_completion {s t : State} (h : execTlbp s = .next t) : Completion .tlbp s t := by
  refine withCop_completion h fun hu h => ?_
  rw [withTlb_eq] at h
  split at h
  · cases h
    exact .tlbp _ _ rfl hu
  · cases h
    exact .tlbp _ _ rfl hu
  · cases h

/-! ## The instructions -/

/-- Whatever next state an instruction gives, it is one of the list. -/
theorem exec_next {i : Instr} {s t : State} (h : exec i s = .next t) : Completion i s t := by
  cases i with
  | lb | lh | lw | lbu | lhu => exact loadSized_completion h rfl
  | lwl | lwr => exact loadMerged_completion h rfl
  | sb | sh | sw => exact storeSized_completion h (by decide) rfl rfl
  | swl rt base offset =>
    have h := (reading_next (reading_next h).2).2
    refine storeBytes_completion h ?_ rfl rfl
    rw [wordAddress_toNat, byteIndex_eq]
    omega
  | swr rt base offset =>
    have h := (reading_next (reading_next h).2).2
    refine storeBytes_completion h ?_ rfl rfl
    rw [byteIndex_eq]
    omega
  | addi => exact writeOrOverflow_completion (reading_next h).2 rfl
  | add | sub => exact writeOrOverflow_completion (reading_next (reading_next h).2).2 rfl
  | addiu | slti | sltiu | andi | ori | xori | sll | srl | sra =>
    simp only [exec_addiu, exec_slti, exec_sltiu, exec_andi, exec_ori, exec_xori, exec_sll, exec_srl, exec_sra] at h
    exact computeUnary_completion h rfl
  | addu | subu | and | or | xor | nor | slt | sltu | sllv | srlv | srav =>
    simp only [exec_addu, exec_subu, exec_and, exec_or, exec_xor, exec_nor, exec_slt, exec_sltu, exec_sllv, exec_srlv,
      exec_srav] at h
    exact computeBinary_completion h rfl
  | lui => cases h; exact .result _ _ rfl
  | mult | multu | div | divu => exact computeHiLo_completion h rfl rfl rfl
  | mfhi => cases h; exact .fromHi _ rfl
  | mflo => cases h; exact .fromLo _ rfl
  | mthi =>
    cases hiLoFree_next (reading_next h).2
    exact .hiLo _ s.lo (fun _ => rfl) (fun hne => absurd rfl hne) rfl
  | mtlo =>
    cases hiLoFree_next (reading_next h).2
    exact .hiLo s.hi _ (fun hne => absurd rfl hne) (fun _ => rfl) rfl
  | j => cases (outsideSlot_next h).2; exact .transfer _ _ rfl
  | jal => cases (outsideSlot_next h).2; exact .link _ _ _ _ rfl
  | jr => cases (outsideSlot_next (reading_next h).2).2; exact .transfer _ _ rfl
  | jalr rs rd =>
    by_cases hok : jalrOperandsOk rs rd = true
    · cases (outsideSlot_next (reading_next ((if_pos hok).symm.trans h)).2).2
      exact .link _ _ _ _ rfl
    · cases (if_neg hok).symm.trans h
  | beq | bne => cases (outsideSlot_next (reading_next (reading_next h).2).2).2; exact .transfer _ _ rfl
  | blez | bgtz | bltz | bgez =>
    simp only [exec_blez, exec_bgtz, exec_bltz, exec_bgez] at h
    exact branchZero_completion h rfl
  | bltzal | bgezal =>
    simp only [exec_bltzal, exec_bgezal] at h
    exact branchZeroLink_completion h rfl
  | syscall | brk | reserved => cases h; exact .exception _
  | lwc0 => exact copLoad_stop_completion (fun _ => noPath_ne_next) h
  | lwc1 | lwc3 => exact copLoad_stop_completion (fun _ => absent_ne_next) h
  | lwc2 =>
    obtain ⟨v, h⟩ | ⟨e, rfl⟩ := copLoad_next h
    · cases h
      exact .cop2 _ rfl
    · exact .exception e
  | swc0 => exact copStore_stop_completion (fun _ => noPath_ne_next) h
  | swc1 | swc3 => exact copStore_stop_completion (fun _ => absent_ne_next) h
  | swc2 => exact execSwc2_completion h
  | mfc0 => exact execMfc0_completion h
  | mtc0 => exact execMtc0_completion h
  | cfc0 => exact withCop_stop_completion noPath_ne_next h
  | ctc0 => exact withCop_stop_completion noPath_ne_next (reading_next h).2
  | bc0f | bc0t => exact withCop_stop_completion (k := .refused .cop0Condition) (fun _ => nofun) (outsideSlot_next h).2
  | mfc1 | cfc1 | cop1 | mfc3 | cfc3 | cop3 => exact withCop_stop_completion absent_ne_next h
  | mtc1 | ctc1 | mtc3 | ctc3 => exact withCop_stop_completion absent_ne_next (reading_next h).2
  | bc1f | bc1t | bc3f | bc3t => exact withCop_stop_completion absent_ne_next (outsideSlot_next h).2
  | mfc2 | cfc2 => exact withCop_completion h fun _ h => by cases h; exact .load _ _ _ rfl
  | mtc2 | ctc2 => exact withCop_completion (reading_next h).2 fun _ h => by cases h; exact .cop2 _ rfl
  | cop2 => exact withCop_completion h fun _ h => by cases h; exact .cop2 _ rfl
  | bc2f | bc2t => exact withCop_completion (outsideSlot_next h).2 fun _ h => by cases h; exact .transfer _ _ rfl
  | tlbr => exact withCop_completion h fun hu h => by cases h; exact .tlbr _ rfl hu
  | tlbwi => exact withCop_completion h fun hu h => by cases h; exact .tlbw _ (.inl rfl) hu
  | tlbwr => exact withCop_completion h fun hu h => by cases h; exact .tlbw _ (.inr rfl) hu
  | tlbp => exact execTlbp_completion h
  | rfe => exact withCop_completion h fun hu h => by cases h; exact .rfe rfl hu

end Sys2Proof.Machine
end

section
/-! The whole machine: what the instructions can change, from the list of their completions. -/

namespace Sys2Proof.Machine

theorem writesHi_iff (i : Instr) :
    writesHi i = true ↔ ∃ rs rt, i ∈ [.mult rs rt, .multu rs rt, .div rs rt, .divu rs rt, .mthi rs] := by
  cases i <;> simp [writesHi]

theorem writesLo_iff (i : Instr) :
    writesLo i = true ↔ ∃ rs rt, i ∈ [.mult rs rt, .multu rs rt, .div rs rt, .divu rs rt, .mtlo rs] := by
  cases i <;> simp [writesLo]

/-- Settles O25: of the completions only the write of HI and LO changes them. -/
theorem hiLoWriters : Obligations.HiLoWriters := by
  intro i s t h
  rw [← writesHi_iff, ← writesLo_iff]
  cases exec_next h with
  | hiLo hi lo hhi hlo => exact ⟨hhi, hlo⟩
  | _ => simp

/-- Settles O44: an exception, or else pc takes npc and only a transfer sets slot. -/
theorem preciseExceptions : Obligations.PreciseExceptions := by
  intro i s t h
  cases exec_next h with
  | exception e => exact .inr (.inl ⟨e, rfl⟩)
  | swc2BusError rt base offset hi => exact .inr (.inr ⟨rt, base, offset, hi, rfl⟩)
  | transfer _ _ hjump | link _ _ _ _ hjump => exact .inl (by simp [hjump])
  | mtc0 _ _ _ hi | tlbr _ hi | tlbp _ _ hi | rfe hi => exact .inl (by simp [hi, isJump])
  | tlbw _ hi => exact .inl (by obtain rfl | rfl := hi <;> simp [isJump])
  | result _ _ hjump | hiLo _ _ _ _ hjump | fromHi _ hjump | fromLo _ hjump | load _ _ _ hjump
  | store _ _ _ _ _ _ _ _ hjump | cop2 _ hjump => exact .inl (by simp [hjump])

/-- Settles O45: of the completions only a store changes memory or W. -/
theorem memoryWriters : Obligations.MemoryWriters := by
  intro i s t h hw
  cases exec_next h with
  | store _ _ _ _ _ _ _ hwrites => simp [hw] at hwrites
  | _ => simp [SameMemory]

/-! ## User mode -/

theorem not_usable_cop0 {s : State} (huser : s.cp0.sr.getLsbD 1 = true) (hcu : s.cp0.sr.getLsbD 28 = false) :
    s.usable 0#2 ≠ true := by
  have hcu : srCu s.cp0.sr 0#2 = false := hcu
  have huser : srKuc s.cp0.sr = true := huser
  simp [State.usable, hcu, huser]

/-- Settles O46: the completions that change coprocessor 0 or the TLB are exceptions or need coprocessor 0 usable. -/
theorem userModeKeepsSystemState : Obligations.UserModeKeepsSystemState := by
  intro i s t huser hcu h
  have hunusable := not_usable_cop0 huser hcu
  cases exec_next h with
  | exception e => exact ⟨rfl, .inr ⟨e, rfl, rfl⟩⟩
  | swc2BusError => exact ⟨rfl, .inr ⟨.dbe, rfl, rfl⟩⟩
  | mtc0 _ _ _ _ hu | tlbr _ _ hu | tlbw _ _ hu | tlbp _ _ _ hu | rfe _ hu => exact absurd hu hunusable
  | _ => simp

/-- The mode bit after exception entry is that of kernel mode (60_exceptions.md R290). -/
theorem srPush_kuc (sr : Word) : (srPush sr).getLsbD 1 = false := by
  rw [srPush_getLsbD sr 1 (by omega), if_pos (by omega)]

theorem takeException_kuc (s : State) (e : Exc) : (s.takeException e).cp0.sr.getLsbD 1 = false := srPush_kuc s.cp0.sr

/-- Only register 12 holds SR. -/
theorem writeCp0_sr_of_ne {s : State} {rd : Reg} {v : Word} {c : Cp0} (h : writeCp0 s rd v = some c) (hrd : rd ≠ 12#5) :
    c.sr = s.cp0.sr := by
  have hne : rd.toNat ≠ 12 := fun h => hrd (eq_ofNat_of_toNat h)
  unfold writeCp0 at h
  split at h
  case h_7 hsr => exact absurd hsr hne
  all_goals cases h <;> rfl

/-- Settles O48: of the completions only an exception, MTC0 to SR and RFE change SR. -/
theorem modeChanges : Obligations.ModeChanges := by
  intro i s t h hne
  cases exec_next h with
  | exception e => exact .inl ⟨takeException_kuc s e, e, rfl⟩
  | swc2BusError => exact .inl ⟨takeException_kuc _ _, .dbe, rfl⟩
  | mtc0 rt rd c hi _ _ _ hc =>
    by_cases hrd : rd = 12#5
    · exact .inr (.inr ⟨rt, hrd ▸ hi⟩)
    · simp [writeCp0_sr_of_ne hc hrd] at hne
  | rfe hi => exact .inr (.inl hi)
  | _ => simp at hne

/-- A user-mode store that reaches memory goes through one matching entry, valid and writable, of a kuseg page
(20_memory.md R78, R80). -/
theorem StoreReady.user_entry {s : State} {va pa : Word} {n : Nat} (h : StoreReady s va n pa)
    (huser : s.cp0.sr.getLsbD 1 = true) :
    ∃ j, Matches s j va ∧ va.getLsbD 31 = false ∧ (s.tlb.get j).valid = true ∧ (s.tlb.get j).dirty = true ∧
      pa = (s.tlb.get j).pfn ++ va.extractLsb' 0 12 := by
  obtain ⟨⟨c, ht⟩, -⟩ := h
  have hkuseg : va.getLsbD 31 = false := by
    by_contra habove
    rw [translateAddress_user .store huser (by simpa using habove)] at ht
    cases ht
  have hmapped : va.extractLsb' 30 2 ≠ 0b10#2 := fun hseg =>
    absurd ((getLsbD_31_of_unmapped hseg).symm.trans hkuseg) Bool.noConfusion
  rw [translateAddress_mapped .store (.inr hkuseg) hmapped] at ht
  unfold translateMapped at ht
  split at ht
  · cases ht
  · next j hone =>
    refine ⟨j, (matches_iff s va j).2 (by simp [hone]), hkuseg, ?_⟩
    obtain ⟨t, hdone, hvalid, hdirty, hpa, -⟩ | ⟨hbad, -⟩ | ⟨hbad, -⟩ := throughEntry_cases (s.tlb.get j) va .store
    · cases hdone.symm.trans ht
      exact ⟨hvalid, hdirty rfl, hpa⟩
    · cases hbad.symm.trans ht
    · cases hbad.symm.trans ht
  · cases ht

/-- A store within one word changes no byte outside the n bytes from pa on. -/
theorem read_store_of_ne {m : Memory} {pa v : Word} {n a : Nat} (hword : pa.toNat % 4 + n ≤ 4)
    (h : Memory.read (Memory.writeBytes m pa (lowBytes v n)) a ≠ Memory.read m a) :
    pa.toNat ≤ a ∧ a < pa.toNat + n := by
  have := pa.isLt
  rw [Memory.read_writeBytes m pa _ a (by rw [lowBytes_length]; omega)] at h
  by_contra hout
  apply h
  split
  · rw [List.getElem?_eq_none (by rw [lowBytes_length]; omega)]; rfl
  · rfl

/-- Settles O47: only a store changes memory, its bytes lie in one page, and in user mode a store is translated by one
entry. -/
theorem userModeStoresThroughTlb : Obligations.UserModeStoresThroughTlb := by
  intro i s t a huser h hne
  cases exec_next h with
  | store va pa v n c hready hword =>
    have hlow := hready.low
    obtain ⟨hle, hlt⟩ := read_store_of_ne (by omega) hne
    obtain ⟨j, ⟨hpage, hspace⟩, hkuseg, hvalid, hdirty, hpa⟩ := hready.user_entry huser
    refine ⟨j, hvalid, hdirty, ?_, hspace, ?_⟩
    · rw [← hkuseg, ← getLsbD_field va (lo := 12) (w := 20) (j := 19) (by omega) rfl, ← hpage]
      exact (getLsbD_field _ (lo := 12) (j := 19) (by omega) rfl).symm
    · have hpfn : pa.toNat / 4096 = (s.tlb.get j).pfn.toNat := by
        rw [hpa, toNat_append_add, BitVec.extractLsb'_toNat]
        omega
      rw [show ((s.tlb.get j).lo.extractLsb' 12 20).toNat = (s.tlb.get j).pfn.toNat from rfl, ← hpfn]
      omega
  | _ => simp at hne

end Sys2Proof.Machine
end

section
/-! The invariant of the machine: the reserved bits of coprocessor 0 and of the TLB under each update (10_state.md R32
to R43), then the parts of a step. -/

namespace Sys2Proof.Machine

/-! ## Reserved bits -/

theorem and_eq_zero_iff (v m : Word) : v &&& m = 0#32 ↔ ∀ k < 32, m.getLsbD k = true → v.getLsbD k = false := by
  constructor
  · intro h k hk hm
    have := congrArg (·.getLsbD k) h
    rw [BitVec.getLsbD_and, hm, Bool.and_true, BitVec.getLsbD_zero] at this
    exact this
  · intro h
    apply BitVec.eq_of_getLsbD_eq
    intro k hk
    rw [BitVec.getLsbD_and, BitVec.getLsbD_zero]
    cases hm : m.getLsbD k with
    | false => rw [Bool.and_false]
    | true => rw [h k hk hm, Bool.and_true]

/-- Bits under a mask that an update keeps stay 0. -/
theorem reserved_of_same {v v' m : Word} (h : v &&& m = 0#32)
    (hsame : ∀ k < 32, m.getLsbD k = true → v'.getLsbD k = v.getLsbD k) : v' &&& m = 0#32 :=
  (and_eq_zero_iff v' m).2 fun k hk hm => (hsame k hk hm).trans ((and_eq_zero_iff v m).1 h k hk hm)

theorem srMask_above_stack : ∀ k < 32, (0x0FBA00C0#32).getLsbD k = true → 6 ≤ k := by decide

theorem srMask_not_written :
    ∀ k < 32, (0x0FBA00C0#32).getLsbD k = true → srWriteMask.getLsbD k = true → k = 17 ∨ k = 25 := by decide

theorem causeMask_fields : ∀ k < 32, (0x4FFF0083#32).getLsbD k = true →
    k < 2 ∨ k = 7 ∨ (16 ≤ k ∧ k < 28) ∨ k = 30 := by decide

theorem lowMask2 : ∀ k < 32, (0x00000003#32).getLsbD k = true → k < 2 := by decide

theorem lowMask6 : ∀ k < 32, (0x0000003F#32).getLsbD k = true → k < 6 := by decide

theorem lowMask8 : ∀ k < 32, (0x000000FF#32).getLsbD k = true → k < 8 := by decide

theorem indexMask_fields : ∀ k < 32, (0x7FFFC0FF#32).getLsbD k = true → k < 8 ∨ (14 ≤ k ∧ k < 31) := by decide

theorem randomMask_fields : ∀ k < 32, (0xFFFFC0FF#32).getLsbD k = true → k < 8 ∨ 14 ≤ k := by decide

theorem srPush_reserved {sr : Word} (h : sr &&& 0x0FBA00C0#32 = 0#32) : srPush sr &&& 0x0FBA00C0#32 = 0#32 :=
  reserved_of_same h fun k hk hm => by
    have := srMask_above_stack k hk hm
    rw [srPush_getLsbD sr k hk, if_neg (by omega), if_neg (by omega)]

theorem srPop_reserved {sr : Word} (h : sr &&& 0x0FBA00C0#32 = 0#32) : srPop sr &&& 0x0FBA00C0#32 = 0#32 :=
  reserved_of_same h fun k hk hm => by
    have := srMask_above_stack k hk hm
    rw [srPop_getLsbD sr k hk, if_neg (by omega)]

/-- An MTC0 that sets neither RE nor SwC keeps the bits of SR that are 0 in every run. -/
theorem srWrite_reserved {sr v : Word} (h : sr &&& 0x0FBA00C0#32 = 0#32) (hre : srRe v = false) (hswc : srSwc v = false) :
    srWrite sr v &&& 0x0FBA00C0#32 = 0#32 := by
  rw [and_eq_zero_iff] at h ⊢
  intro k hk hm
  rw [srWrite_getLsbD sr v k hk]
  split
  · next hw =>
    obtain rfl | rfl := srMask_not_written k hk hm hw
    · exact hswc
    · exact hre
  · exact h k hk hm

theorem causeEnter_reserved {cause : Word} (h : cause &&& 0x4FFF0083#32 = 0#32) (inSlot : Bool) (e : Exc) :
    causeEnter cause inSlot e &&& 0x4FFF0083#32 = 0#32 :=
  reserved_of_same h fun k hk hm => by
    have := causeMask_fields k hk hm
    rw [causeEnter_getLsbD _ _ _ k hk, if_neg (by omega), if_neg (by omega), if_neg (by omega)]

theorem causeWrite_reserved {cause : Word} (h : cause &&& 0x4FFF0083#32 = 0#32) (v : Word) :
    causeWrite cause v &&& 0x4FFF0083#32 = 0#32 :=
  reserved_of_same h fun k hk hm => by
    have := causeMask_fields k hk hm
    rw [causeWrite_getLsbD _ _ k hk, if_neg (by omega)]

theorem causeWithLines_reserved {cause : Word} (h : cause &&& 0x4FFF0083#32 = 0#32) (lines : BitVec 6) :
    causeWithLines cause lines &&& 0x4FFF0083#32 = 0#32 :=
  reserved_of_same h fun k hk hm => by
    have := causeMask_fields k hk hm
    rw [causeWithLines_getLsbD _ _ k hk, if_neg (by omega)]

theorem contextWithBadVpn_reserved {context : Word} (h : context &&& 0x00000003#32 = 0#32) (va : Word) :
    contextWithBadVpn context va &&& 0x00000003#32 = 0#32 :=
  reserved_of_same h fun k hk hm => by
    have := lowMask2 k hk hm
    rw [contextWithBadVpn_getLsbD _ _ k hk, if_neg (by omega)]

theorem entryHiWithVpn_reserved {entryHi : Word} (h : entryHi &&& 0x0000003F#32 = 0#32) (va : Word) :
    entryHiWithVpn entryHi va &&& 0x0000003F#32 = 0#32 :=
  reserved_of_same h fun k hk hm => by
    have := lowMask6 k hk hm
    rw [entryHiWithVpn_getLsbD _ _ k hk, if_neg (by omega)]

/-- The part of Context that MTC0 keeps holds its reserved bits. -/
theorem contextWrite_reserved {context : Word} (h : context &&& 0x00000003#32 = 0#32) (v : Word) :
    (v.extractLsb' 21 11 ++ context.extractLsb' 0 21 : Word) &&& 0x00000003#32 = 0#32 :=
  reserved_of_same h fun k hk hm => by
    have := lowMask2 k hk hm
    rw [BitVec.getLsbD_append, if_pos (by omega), getLsbD_field context (by omega) (Nat.zero_add k)]

theorem entryLoWrite_reserved (v : Word) : (v.extractLsb' 8 24 ++ 0#8 : Word) &&& 0x000000FF#32 = 0#32 :=
  (and_eq_zero_iff _ _).2 fun k hk hm => by
    rw [BitVec.getLsbD_append, if_pos (lowMask8 k hk hm), BitVec.getLsbD_zero]

theorem entryHiWrite_reserved (v : Word) : (v.extractLsb' 6 26 ++ 0#6 : Word) &&& 0x0000003F#32 = 0#32 :=
  (and_eq_zero_iff _ _).2 fun k hk hm => by
    rw [BitVec.getLsbD_append, if_pos (lowMask6 k hk hm), BitVec.getLsbD_zero]

theorem indexWord_reserved (p : BitVec 1) (i : BitVec 6) : indexWord p i &&& 0x7FFFC0FF#32 = 0#32 :=
  (and_eq_zero_iff _ _).2 fun k hk hm => by
    have := indexMask_fields k hk hm
    rw [indexWord_getLsbD p i k hk, if_neg (by omega), if_neg (by omega)]

theorem randomWord_reserved (i : BitVec 6) : randomWord i &&& 0xFFFFC0FF#32 = 0#32 :=
  (and_eq_zero_iff _ _).2 fun k hk hm => by
    have := randomMask_fields k hk hm
    rw [randomWord_getLsbD i k hk, if_neg (by omega)]

/-! ## Fields that hold a number -/

theorem indexOf_randomWord (i : BitVec 6) : indexOf (randomWord i) = i := by
  apply BitVec.eq_of_getLsbD_eq
  intro j hj
  rw [indexOf, getLsbD_field _ hj rfl, randomWord_getLsbD i _ (by omega), if_pos (by omega), Nat.add_sub_cancel_left]

theorem Exc.code_le (e : Exc) : e.code.toNat ≤ 12 := by cases e <;> simp [Exc.code]

theorem causeWithLines_excCode (cause : Word) (lines : BitVec 6) :
    (causeWithLines cause lines).extractLsb' 2 5 = cause.extractLsb' 2 5 := by
  apply BitVec.eq_of_getLsbD_eq
  intro j hj
  rw [getLsbD_field _ hj rfl, getLsbD_field _ hj rfl, causeWithLines_getLsbD _ _ _ (by omega), if_neg (by omega)]

theorem causeWrite_excCode (cause v : Word) : (causeWrite cause v).extractLsb' 2 5 = cause.extractLsb' 2 5 := by
  apply BitVec.eq_of_getLsbD_eq
  intro j hj
  rw [getLsbD_field _ hj rfl, getLsbD_field _ hj rfl, causeWrite_getLsbD _ _ _ (by omega), if_neg (by omega)]

/-! ## Coprocessor 0 -/

theorem Cp0.Legal.enter {c : Cp0} (h : c.Legal) (e : Exc) (a : Word) (inSlot : Bool) : (c.enter e a inSlot).Legal where
  index_reserved := h.index_reserved
  random_reserved := h.random_reserved
  random_range := h.random_range
  entryLo_reserved := h.entryLo_reserved
  context_reserved := by
    cases hva : e.tlbAddress with
    | none => simpa [Cp0.enter, hva] using h.context_reserved
    | some va => rw [Cp0.enter_context hva]; exact contextWithBadVpn_reserved h.context_reserved va
  entryHi_reserved := by
    cases hva : e.tlbAddress with
    | none => simpa [Cp0.enter, hva] using h.entryHi_reserved
    | some va => rw [Cp0.enter_entryHi hva]; exact entryHiWithVpn_reserved h.entryHi_reserved va
  sr_reserved := srPush_reserved h.sr_reserved
  cause_reserved := causeEnter_reserved h.cause_reserved inSlot e
  cause_code := (congrArg BitVec.toNat (causeEnter_excCode c.cause inSlot e)).trans_le e.code_le

theorem Cp0.Legal.beginStep {s : State} (h : s.cp0.Legal) : s.beginStep.cp0.Legal :=
  { h with
    random_reserved := randomWord_reserved _
    random_range := (indexOf_randomWord _).symm ▸ randomAt_range s.tick
    cause_reserved := causeWithLines_reserved h.cause_reserved _
    cause_code := (causeWithLines_excCode s.cp0.cause _).symm ▸ h.cause_code }

/-- MTC0 past the two values of SR it stops at. -/
theorem Cp0.Legal.writeCp0 {s : State} {rd : Reg} {v : Word} {c : Cp0} (h : s.cp0.Legal)
    (hc : writeCp0 s rd v = some c) (hre : rd = 12#5 → srRe v = false) (hswc : rd = 12#5 → srSwc v = false) :
    c.Legal := by
  unfold Machine.writeCp0 at hc
  split at hc
  case h_1 => cases hc; exact { h with index_reserved := indexWord_reserved _ _ }
  case h_3 => cases hc; exact { h with entryLo_reserved := entryLoWrite_reserved v }
  case h_4 => cases hc; exact { h with context_reserved := contextWrite_reserved h.context_reserved v }
  case h_6 => cases hc; exact { h with entryHi_reserved := entryHiWrite_reserved v }
  case h_7 hrd =>
    have hrd := eq_ofNat_of_toNat hrd
    cases hc
    exact { h with sr_reserved := srWrite_reserved h.sr_reserved (hre hrd) (hswc hrd) }
  case h_8 =>
    cases hc
    exact { h with cause_reserved := causeWrite_reserved h.cause_reserved v
                   cause_code := (causeWrite_excCode s.cp0.cause v).symm ▸ h.cause_code }
  case h_2 | h_5 | h_9 | h_10 => cases hc; exact h
  case h_11 => cases hc

/-! ## The TLB -/

theorem writeTlb_get (s : State) (n : BitVec 6) (i : Fin Config.tlbEntries) :
    (s.writeTlb n).tlb.get i = if i.val = n.toNat then { hi := s.cp0.entryHi, lo := s.cp0.entryLo } else s.tlb.get i := by
  rw [State.writeTlb_tlb, Vector.get_eq_getElem, Vector.getElem_set]
  exact if_congr eq_comm rfl rfl

/-! ## The parts of a step -/

theorem State.Inv.beginStep {s : State} (h : s.Inv) : s.beginStep.Inv :=
  { memory_canonical := h.memory_canonical
    written_rising := h.written_rising
    sequential := h.sequential
    ld_not_r0 := h.ld_not_r0
    hi_age := h.hi_age
    lo_age := h.lo_age
    cp0_legal := h.cp0_legal.beginStep
    tlb_legal := h.tlb_legal }

theorem State.Inv.takeException {s : State} (h : s.Inv) (e : Exc) : (s.takeException e).Inv :=
  { h with
    sequential := fun _ => rfl
    ld_not_r0 := nofun
    cp0_legal := h.cp0_legal.enter e s.pc s.slot }

/-- Coprocessor 2 has no part in the invariant. -/
theorem State.Inv.withC2 {s : State} (h : s.Inv) (c : Nat) : { s with c2 := c }.Inv := { h with }

theorem State.Inv.setX {s : State} (h : s.Inv) (r : Reg) (v : Word) : (s.setX r v).Inv := by
  unfold State.setX
  split
  · exact h
  · exact { h with }

theorem State.Inv.retire {s : State} (h : s.Inv) : s.retire.Inv :=
  { h with
    sequential := fun _ => rfl
    ld_not_r0 := nofun
    hi_age := (Nat.sub_le _ _).trans h.hi_age
    lo_age := (Nat.sub_le _ _).trans h.lo_age }

theorem State.Inv.retireLoad {s : State} (h : s.Inv) (r : Reg) (v : Word) : (s.retireLoad r v).Inv :=
  { (h.setX r v).retire with
    ld_not_r0 := by
      rw [State.retireLoad_ld]
      split
      · nofun
      · next hr => simpa using hr }

theorem State.Inv.retireJump {s : State} (h : s.Inv) (taken : Bool) (target : Word) : (s.retireJump taken target).Inv :=
  { h.retire with sequential := nofun }

theorem State.Inv.withCp0 {s : State} (h : s.Inv) {c : Cp0} (hc : c.Legal) : { s with cp0 := c }.Inv :=
  { h with cp0_legal := hc }

theorem State.Inv.writeTlb {s : State} (h : s.Inv) (n : BitVec 6) : (s.writeTlb n).Inv :=
  { h with
    tlb_legal := fun i => by
      rw [writeTlb_get]
      split
      · exact ⟨h.cp0_legal.entryHi_reserved, h.cp0_legal.entryLo_reserved⟩
      · exact h.tlb_legal i }

theorem State.Inv.readTlb {s : State} (h : s.Inv) (n : BitVec 6) : (s.readTlb n).Inv :=
  have ⟨hhi, hlo⟩ := h.tlb_legal (entryNumber n)
  h.withCp0 { h.cp0_legal with entryHi_reserved := hhi, entryLo_reserved := hlo }

theorem State.Inv.store {s : State} (h : s.Inv) (pa : Word) (bytes : List Byte) (a : Nat) :
    { s with mem := Memory.writeBytes s.mem pa bytes, written := recordWritten s.written a }.Inv :=
  { h with
    memory_canonical := Memory.writeBytes_wf s.mem pa bytes h.memory_canonical
    written_rising := recordWritten_pairwise s.written a h.written_rising }

/-- Every completion of an instruction keeps the invariant. -/
theorem State.Inv.completion {i : Instr} {s t : State} (h : s.Inv) (hc : Completion i s t) : t.Inv := by
  cases hc with
  | exception e => exact h.takeException e
  | swc2BusError => exact (h.withC2 _).takeException _
  | result r v => exact (h.setX r v).retire
  | hiLo => exact { h.retire with }
  | fromHi r => exact { (h.setX r _).retire with hi_age := le_refl 2 }
  | fromLo r => exact { (h.setX r _).retire with lo_age := le_refl 2 }
  | load r v c => exact (h.retireLoad r v).withC2 c
  | transfer taken target => exact h.retireJump taken target
  | link r v taken target => exact (h.setX r v).retireJump taken target
  | store va pa v n c => exact (h.retire.store pa _ _).withC2 c
  | cop2 c => exact h.retire.withC2 c
  | mtc0 rt rd c _ _ hre hswc hwrite => exact h.retire.withCp0 (h.cp0_legal.writeCp0 hwrite hre hswc)
  | tlbr n => exact (h.readTlb n).retire
  | tlbw n => exact (h.writeTlb n).retire
  | tlbp p f => exact h.retire.withCp0 { h.cp0_legal with index_reserved := indexWord_reserved p f }
  | rfe => exact (h.withCp0 (c := s.popStatus.cp0) { h.cp0_legal with sr_reserved := srPop_reserved h.cp0_legal.sr_reserved }).retire

/-- Settles O49: a step samples its inputs and then is an exception entry or a completion, and each part keeps the
invariant. -/
theorem stepKeepsInvariant : Obligations.StepKeepsInvariant := by
  intro s t h hstep
  obtain ⟨e, rfl⟩ | ⟨i, hexec⟩ := step_next hstep
  · exact h.beginStep.takeException e
  · exact h.beginStep.completion (exec_next hexec)

theorem resetCp0_legal : resetCp0.Legal := by constructor <;> decide

/-- The page number in the high half leaves its low bits free of the reserved ones (10_state.md R43). -/
theorem resetTlbEntry_legal (i : Fin Config.tlbEntries) : (resetTlbEntry i).Legal :=
  ⟨(and_eq_zero_iff _ _).2 fun k hk hm => by
    have := lowMask6 k hk hm
    rw [resetTlbEntry, BitVec.getLsbD_append, if_pos (by omega), BitVec.getLsbD_zero], BitVec.zero_and⟩

/-- Settles O50, field by field. -/
theorem resetHasInvariant : Obligations.ResetHasInvariant where
  memory_canonical := reset_memory_wf
  written_rising := .nil
  sequential _ := rfl
  ld_not_r0 := nofun
  hi_age := Nat.zero_le 2
  lo_age := Nat.zero_le 2
  cp0_legal := resetCp0_legal
  tlb_legal i := by
    rw [State.reset, Vector.get_eq_getElem, Vector.getElem_ofFn]
    exact resetTlbEntry_legal i

end Sys2Proof.Machine
end

section
/-! The instruction cycle: the start of a step, the interrupt test, the fetch and the words that decode or do not
(10_state.md R28, 20_memory.md R74, 60_exceptions.md R280). -/

namespace Sys2Proof.Machine

/-! ## Step S1 -/

/-- Settles O8, from the bits of Cause with its lines and of the Random word. -/
theorem beginStepSamples : Obligations.BeginStepSamples := by
  intro s
  refine ⟨fun k hk => ?lines, fun k hk => ?others, ?random, randomWord_reserved _, rfl⟩
  case lines =>
    rw [State.beginStep_cp0, causeWithLines_getLsbD _ _ _ (by omega), if_pos (by omega), Nat.add_sub_cancel_left,
      linesNow]
  case others =>
    by_cases h32 : k < 32
    · rw [State.beginStep_cp0, causeWithLines_getLsbD _ _ _ h32, if_neg (by omega)]
    · rw [BitVec.getLsbD_of_ge _ _ (by omega), BitVec.getLsbD_of_ge _ _ (by omega)]
  case random => exact (randomAt_range s.tick).trans_eq (congrArg BitVec.toNat (indexOf_randomWord _).symm)

/-! ## Step S2 -/

theorem ne_zero_iff_bit {n : Nat} (v : BitVec n) : v ≠ 0#n ↔ ∃ k < n, v.getLsbD k = true := by
  constructor
  · intro h
    by_contra hno
    refine h (BitVec.eq_of_getLsbD_eq fun k hk => ?_)
    rw [BitVec.getLsbD_zero]
    by_contra hbit
    exact hno ⟨k, hk, by simpa using hbit⟩
  · rintro ⟨k, -, hbit⟩ rfl
    simp at hbit

/-- The interrupt condition bit by bit (60_exceptions.md R280). -/
theorem interruptCondition_iff (sr cause : Word) :
    interruptCondition sr cause = true ↔
      sr.getLsbD 0 = true ∧ ∃ k, k < 8 ∧ cause.getLsbD (8 + k) = true ∧ sr.getLsbD (8 + k) = true := by
  rw [interruptCondition, Bool.and_eq_true, bne_iff_ne, ne_zero_iff_bit]
  refine and_congr Iff.rfl (exists_congr fun k => and_congr_right fun hk => ?_)
  rw [BitVec.getLsbD_and, Bool.and_eq_true, causeIp, srIm, getLsbD_field cause hk rfl, getLsbD_field sr hk rfl]

/-- Settles O9: the two branches of a step. -/
theorem interruptTaken : Obligations.InterruptTaken := by
  intro s
  have hiff := interruptCondition_iff s.cp0.sr s.beginStep.cp0.cause
  refine ⟨fun h => step_of_interrupt (hiff.2 h), fun h => step_of_noInterrupt ?_⟩
  exact Bool.eq_false_iff.2 fun hpending => h (hiff.1 hpending)

/-! ## The fetch -/

/-- What a step does with the answer of its fetch. -/
theorem step_of_fetch {s : State} (h : NoInterrupt s) {a : Access Word} (ha : fetch s s.pc = a) :
    step s = a.finish s.beginStep fun w =>
      match decode w with
      | .ok i => exec i s.beginStep
      | .error e => rejectWord s.beginStep e := by
  rw [step_of_noInterrupt h, ← ha]
  rfl

theorem fetch_misaligned {s : State} {va : Word} (h : va.toNat % 4 ≠ 0) : fetch s va = .trap (.adel va) := by
  rw [fetch, checkAligned_bad h]; rfl

theorem fetch_untranslated {s : State} {va : Word} (halign : va.toNat % 4 = 0) :
    (∀ e, translateAddress s va .fetch = .trap e → fetch s va = .trap e) ∧
      ∀ f, translateAddress s va .fetch = .stop f → fetch s va = .stop f := by
  refine ⟨fun e ht => ?_, fun f ht => ?_⟩ <;>
    simp only [fetch, checkAligned_ok halign, Access.andThen_done, ht, Access.andThen_trap, Access.andThen_stop]

section
variable {s : State} {va : Word} {t : Translated} (halign : va.toNat % 4 = 0)
  (ht : translateAddress s va .fetch = .done t)
include halign ht

/-- The checks of a fetch past translation, in their order (20_memory.md R74, R88). -/
theorem fetch_translated :
    fetch s va =
      if s.platform.busError t.pa .fetch then .trap .ibe
      else if !s.platform.populatedAt t.pa 4 then .stop .unpopulated
      else if t.cacheable && s.written.contains (wordAddress t.pa).toNat then .stop .staleCode
      else .done (Memory.readWord s.mem t.pa) := by
  simp only [fetch, checkAligned_ok halign, Access.andThen_done, ht]

end

/-- Settles O10: the answers of the fetch in the order of its checks, each of them the whole step. -/
theorem fetchDoesNotReach : Obligations.FetchDoesNotReach := by
  intro s hno
  refine ⟨fun h => step_of_fetch hno (fetch_misaligned h), fun halign => ⟨fun e ht => ?_, fun f ht => ?_,
    fun t ht => ⟨fun hbus => ?_, fun hbus => ⟨fun hpop => ?_, fun hpop hcache hstale => ?_⟩⟩⟩⟩
  · exact step_of_fetch hno ((fetch_untranslated halign).1 e ht)
  · exact step_of_fetch hno ((fetch_untranslated halign).2 f ht)
  all_goals have hfetch := fetch_translated halign ht
  · exact step_of_fetch hno (hfetch.trans (if_pos hbus))
  · exact step_of_fetch hno (a := .stop .unpopulated) (by simp [hfetch, hbus, hpop])
  · exact step_of_fetch hno (a := .stop .staleCode) (by simp [hfetch, hbus, hpop, hcache, hstale])

/-! ## The fetched word -/

/-- The four bytes of a fetch are the word it reads. -/
theorem decodeBytes_fetched (m : Memory) (pa : Word) :
    decodeBytes [Memory.readByte m pa, Memory.readByte m (pa + 1#32), Memory.readByte m (pa + 2#32),
      Memory.readByte m (pa + 3#32)] = decode (Memory.readWord m pa) := rfl

theorem step_of_decoded {s : State} {pa : Word} {i : Instr} (hno : NoInterrupt s) (hready : FetchReady s pa)
    (hdec : decode (Memory.readWord s.mem pa) = .ok i) : step s = exec i s.beginStep := by
  rw [step_of_noInterrupt hno, fetchAndRun_ready hready.begin, State.beginStep_mem, hdec]

theorem step_of_rejected {s : State} {pa : Word} {e : DecodeError} (hno : NoInterrupt s) (hready : FetchReady s pa)
    (hdec : decode (Memory.readWord s.mem pa) = .error e) : step s = rejectWord s.beginStep e := by
  rw [step_of_noInterrupt hno, fetchAndRun_ready hready.begin, State.beginStep_mem, hdec]

/-- Settles O6. -/
theorem stepRunsDecoded : Obligations.StepRunsDecoded := fun s pa _ hno hready hdec =>
  step_of_decoded hno hready ((decodeBytes_fetched s.mem pa).symm.trans hdec)

/-- Settles O7: a step on a rejected word is rejectWord, arm by arm. -/
theorem stepOfRejectedWord : Obligations.StepOfRejectedWord := by
  intro s pa e hno hready hdec
  rw [step_of_rejected hno hready ((decodeBytes_fetched s.mem pa).symm.trans hdec)]
  refine ⟨?_, ?_, ?_, ?_, fun z he hu => ?_, fun z he hu hz => ?_, fun z he hu hz => ?_, fun he hu => ?_, fun he hu => ?_⟩
  iterate 4
    rintro rfl
    rfl
  all_goals subst he
  · exact withCop_unusable (s := s.beginStep) hu _
  · refine (withCop_usable (s := s.beginStep) hu _).trans ?_
    obtain rfl | rfl := hz <;> rfl
  · exact (withCop_usable (s := s.beginStep) hu _).trans (congrArg Host.Outcome.fault (if_pos hz))
  · exact withCop_unusable (s := s.beginStep) hu _
  · exact withCop_usable (s := s.beginStep) hu _

/-! ## The first instruction after reset -/

/-- A word put in memory is the word read there, where it does not wrap. -/
theorem readWord_writeBytes (m : Memory) (pa w : Word) (h : pa.toNat + 4 ≤ 2 ^ 32) :
    Memory.readWord (Memory.writeBytes m pa (bytesOfWord w)) pa = w := by
  apply eq_of_bytes
  intro j hj
  rw [Memory.byte_readWord _ pa (by omega) j hj, Memory.read_writeBytes m pa (bytesOfWord w) _ h, if_pos (Nat.le_add_right _ _),
    Nat.add_sub_cancel_left, bytesOfWord_eq]
  interval_cases j <;> rfl

/-- The physical address of the first fetch (20_memory.md R79, 70_reset_and_hazards.md R320). -/
theorem fetchAddress_reset : fetchAddress State.reset = some 0x1FC00000#32 := by decide

/-- The word is read back from where it was placed, and nothing at reset keeps the fetch from it. -/
theorem fetchReady_reset (w : Word) : FetchReady (State.reset.placeWord 0x1FC00000#32 w) 0x1FC00000#32 :=
  have halign : State.reset.pc.toNat % 4 = 0 := by decide
  have htranslate : translateAddress State.reset State.reset.pc .fetch = .done ⟨0x1FC00000#32, false⟩ := by decide
  have hbus : resetPlatform.busError 0x1FC00000#32 .fetch = false := by decide
  have hpopulated : resetPlatform.populatedAt 0x1FC00000#32 4 = true := by decide
  ⟨halign, ⟨false, htranslate, nofun⟩, hbus, hpopulated⟩

/-- With SR.IEc = 0 no interrupt is taken (60_exceptions.md R280). -/
theorem noInterrupt_of_iec {s : State} (h : srIec s.cp0.sr = false) : NoInterrupt s := by
  simp [NoInterrupt, State.interruptPending, interruptCondition, h]

theorem noInterrupt_reset (w : Word) : NoInterrupt (State.reset.placeWord 0x1FC00000#32 w) :=
  have hiec : srIec State.reset.cp0.sr = false := by decide
  noInterrupt_of_iec hiec

/-- Settles O11: interrupts are off at reset, and the placed word is fetched and decodes to its instruction. -/
theorem placedWordRunsAfterReset : Obligations.PlacedWordRunsAfterReset := by
  intro i hwf
  have hplaced : State.reset.withFetchWord 32 (encode i).toNat = State.reset.placeWord 0x1FC00000#32 (encode i) := by
    have hword : tableWord 32 (encode i).toNat = encode i := by
      rw [tableWord, Nat.mod_eq_of_lt (encode i).isLt, BitVec.ofNat_toNat, BitVec.setWidth_eq]
    rw [State.withFetchWord, fetchAddress_reset, hword]
  rw [hplaced]
  refine step_of_decoded (noInterrupt_reset _) (fetchReady_reset (encode i)) ?_
  rw [State.placeWord_mem, readWord_writeBytes _ _ _ (by decide)]
  exact decodeOfEncode i hwf

end Sys2Proof.Machine
end

section
/-! Taking an exception and returning from one, bit by bit (60_exceptions.md R290, R294, R295; 48_cop0.md R256). -/

namespace Sys2Proof.Machine

/-! ## The stack of SR as masks and shifts -/

theorem mask_from_6 : ∀ k < 32, (0xFFFFFFC0#32).getLsbD k = decide (6 ≤ k) := by decide

theorem mask_from_2_to_6 : ∀ k < 32, (0x0000003C#32).getLsbD k = decide (2 ≤ k ∧ k < 6) := by decide

theorem mask_from_4 : ∀ k < 32, (0xFFFFFFF0#32).getLsbD k = decide (4 ≤ k) := by decide

theorem mask_to_4 : ∀ k < 32, (0x0000000F#32).getLsbD k = decide (k < 4) := by decide

theorem srPush_eq_masks (sr : Word) :
    srPush sr = (sr &&& 0xFFFFFFC0#32) ||| ((sr <<< 2) &&& 0x0000003C#32) := by
  apply BitVec.eq_of_getLsbD_eq
  intro k hk
  rw [srPush_getLsbD sr k hk, BitVec.getLsbD_or, BitVec.getLsbD_and, BitVec.getLsbD_and, BitVec.getLsbD_shiftLeft,
    mask_from_6 k hk, mask_from_2_to_6 k hk, decide_eq_true hk]
  by_cases h2 : k < 2
  · simp [h2, show ¬6 ≤ k by omega]
  · by_cases h6 : k < 6
    · simp [h2, h6, show ¬6 ≤ k by omega, show 2 ≤ k by omega]
    · simp [h2, h6, show 6 ≤ k by omega]

theorem srPop_eq_masks (sr : Word) :
    srPop sr = (sr &&& 0xFFFFFFF0#32) ||| ((sr >>> 2) &&& 0x0000000F#32) := by
  apply BitVec.eq_of_getLsbD_eq
  intro k hk
  rw [srPop_getLsbD sr k hk, BitVec.getLsbD_or, BitVec.getLsbD_and, BitVec.getLsbD_and, BitVec.getLsbD_ushiftRight,
    mask_from_4 k hk, mask_to_4 k hk]
  by_cases h4 : k < 4
  · simp [h4, show ¬4 ≤ k by omega, Nat.add_comm]
  · simp [h4, show 4 ≤ k by omega]

/-- Return right after entry: the two pairs that were pushed come back (60_exceptions.md R295). -/
theorem srPop_srPush_getLsbD (sr : Word) (k : Nat) (hk : k < 32) (hold : k < 4 ∨ 6 ≤ k) :
    (srPop (srPush sr)).getLsbD k = sr.getLsbD k := by
  rw [srPop_getLsbD _ k hk]
  split
  · rw [srPush_getLsbD sr _ (by omega), if_neg (by omega), if_pos (by omega), Nat.add_sub_cancel]
  · rw [srPush_getLsbD sr k hk, if_neg (by omega), if_neg (by omega)]

/-- The old pair keeps what entry put there, which was the previous pair. -/
theorem srPop_srPush_old (sr : Word) :
    (srPop (srPush sr)).extractLsb' 4 2 = sr.extractLsb' 2 2 := by
  apply BitVec.eq_of_getLsbD_eq
  intro j hj
  rw [getLsbD_field _ hj rfl, getLsbD_field sr hj rfl, srPop_getLsbD _ _ (by omega), if_neg (by omega),
    srPush_getLsbD sr _ (by omega), if_neg (by omega), if_pos (by omega), show 4 + j - 2 = 2 + j by omega]

/-! ## The fields that entry writes -/

theorem Exc.badAddress_eq_some_iff (e : Exc) (va : Word) :
    e.badAddress = some va ↔ ∃ r, e ∈ [.adel va, .ades va, .tlbl va r, .tlbs va r, .mod va] := by
  cases e <;> simp [Exc.badAddress]

theorem Exc.tlbAddress_eq_some_iff_mem (e : Exc) (va : Word) :
    e.tlbAddress = some va ↔ ∃ r, e ∈ [.tlbl va r, .tlbs va r, .mod va] := by
  cases e <;> simp [Exc.tlbAddress]

theorem Cp0.enter_badVAddr_none {e : Exc} (h : e.badAddress = none) (c : Cp0) (a : Word) (inSlot : Bool) :
    (c.enter e a inSlot).badVAddr = c.badVAddr := by simp [Cp0.enter, h]

theorem Cp0.enter_context_none {e : Exc} (h : e.tlbAddress = none) (c : Cp0) (a : Word) (inSlot : Bool) :
    (c.enter e a inSlot).context = c.context := by simp [Cp0.enter, h]

theorem Cp0.enter_entryHi_none {e : Exc} (h : e.tlbAddress = none) (c : Cp0) (a : Word) (inSlot : Bool) :
    (c.enter e a inSlot).entryHi = c.entryHi := by simp [Cp0.enter, h]

/-- Entry loads Cause.CE with the number of a CpU and keeps it otherwise (60_exceptions.md R290). -/
theorem causeEnter_ce (cause : Word) (inSlot : Bool) (e : Exc) :
    (causeEnter cause inSlot e).extractLsb' 28 2 = causeCeAfter cause e := by
  apply BitVec.eq_of_getLsbD_eq
  intro j hj
  rw [getLsbD_field _ hj rfl, causeEnter_getLsbD _ _ _ _ (by omega), if_neg (by omega), if_pos (by omega),
    Nat.add_sub_cancel_left]

theorem causeCeAfter_of_ne_cpu {e : Exc} (h : ∀ z, e ≠ .cpu z) (cause : Word) :
    causeCeAfter cause e = cause.extractLsb' 28 2 := by
  cases e with
  | cpu z => exact absurd rfl (h z)
  | _ => rfl

/-- Entry records BD in Cause bit 31. -/
theorem causeEnter_bd (cause : Word) (inSlot : Bool) (e : Exc) : (causeEnter cause inSlot e).getLsbD 31 = inSlot := by
  rw [causeEnter_getLsbD _ _ _ _ (by omega), if_pos rfl]

/-- The parts of Context and EntryHi that a TLB exception leaves. -/
theorem contextWithBadVpn_kept (context va : Word) {lo w : Nat} (h : lo + w ≤ 2 ∨ (21 ≤ lo ∧ lo + w ≤ 32)) :
    (contextWithBadVpn context va).extractLsb' lo w = context.extractLsb' lo w := by
  apply BitVec.eq_of_getLsbD_eq
  intro j hj
  rw [getLsbD_field _ hj rfl, getLsbD_field context hj rfl, contextWithBadVpn_getLsbD _ _ _ (by omega),
    if_neg (by omega)]

theorem entryHiWithVpn_kept (entryHi va : Word) :
    (entryHiWithVpn entryHi va).extractLsb' 0 12 = entryHi.extractLsb' 0 12 := by
  apply BitVec.eq_of_getLsbD_eq
  intro j hj
  rw [getLsbD_field _ hj rfl, getLsbD_field entryHi hj rfl, entryHiWithVpn_getLsbD _ _ _ (by omega), if_neg (by omega)]

/-- Settles O12: the fields of Cp0.enter one by one; the rest of the state is that of State.takeException. -/
theorem exceptionEntry : Obligations.ExceptionEntry := by
  intro s e t
  have ht : t.cp0 = s.cp0.enter e s.pc s.slot := rfl
  have hcause : t.cp0.cause = causeEnter s.cp0.cause s.slot e := rfl
  refine ⟨fun hslot => ?delayed, fun hslot => ?notDelayed, ?code, fun z hz => ?ceCpu, fun hne => ?ceKept,
    fun k hk => ?causeKept, fun va r he => ?badAddress, fun hne => ?noBadAddress, fun va r he => ?tlbAddress,
    fun hne => ?noTlbAddress, srPush_eq_masks s.cp0.sr, rfl, rfl, rfl, rfl, rfl, rfl, rfl, rfl, rfl, rfl, rfl, rfl, rfl,
    rfl, rfl, rfl, rfl, rfl, rfl⟩
  case delayed => exact ⟨if_pos hslot, (causeEnter_bd _ _ e).trans hslot⟩
  case notDelayed => exact ⟨if_neg (by simp [hslot]), (causeEnter_bd _ _ e).trans hslot⟩
  case code => exact (State.takeException_excCode s e).trans (by cases e <;> rfl)
  case ceCpu => rw [hcause, causeEnter_ce, hz]; rfl
  case ceKept => rw [hcause, causeEnter_ce, causeCeAfter_of_ne_cpu hne]
  case causeKept =>
    rw [hcause, causeEnter_getLsbD _ _ _ k (by omega), if_neg (by omega), if_neg (by omega), if_neg (by omega)]
  case badAddress => exact Cp0.enter_badVAddr ((e.badAddress_eq_some_iff va).2 ⟨r, he⟩) _ _ _
  case noBadAddress =>
    refine Cp0.enter_badVAddr_none (Option.eq_none_iff_forall_ne_some.2 fun va hva => ?_) _ _ _
    obtain ⟨r, he⟩ := (e.badAddress_eq_some_iff va).1 hva
    exact hne va r he
  case tlbAddress =>
    have hva := (e.tlbAddress_eq_some_iff_mem va).2 ⟨r, he⟩
    rw [ht, Cp0.enter_context hva, Cp0.enter_entryHi hva]
    exact ⟨contextWithBadVpn_badVpn _ va, contextWithBadVpn_kept _ va (by omega), contextWithBadVpn_kept _ va (by omega),
      entryHiWithVpn_vpn _ va, entryHiWithVpn_kept _ va⟩
  case noTlbAddress =>
    have hnone : e.tlbAddress = none := Option.eq_none_iff_forall_ne_some.2 fun va hva => by
      obtain ⟨r, he⟩ := (e.tlbAddress_eq_some_iff_mem va).1 hva
      exact hne va r he
    exact ⟨Cp0.enter_context_none hnone _ _ _, Cp0.enter_entryHi_none hnone _ _ _⟩

/-! ## RFE -/

theorem exec_rfe {s : State} (h : s.usable 0#2 = true) : exec .rfe s = .next s.popStatus.retire := withCop_usable h _

/-- Settles O14. -/
theorem rfePopsStatus : Obligations.RfePopsStatus := by
  intro s hu
  refine ⟨_, exec_rfe (hu.usable rfl), ?_, fun _ => rfl, ⟨rfl, rfl⟩, rfl, ⟨fun _ => rfl, rfl⟩, ⟨rfl, rfl, rfl⟩, rfl,
    advances_retire s.popStatus⟩
  rw [State.retire_cp0, State.popStatus_cp0, srPop_eq_masks]

/-- Entry goes to kernel mode, where coprocessor 0 is usable (47_coprocessor.md R235). -/
theorem takeException_usable (s : State) (e : Exc) : (s.takeException e).usable 0#2 = true := by
  have hkuc : srKuc (s.takeException e).cp0.sr = false := takeException_kuc s e
  simp only [State.usable, hkuc, beq_self_eq_true, Bool.not_false, Bool.and_true, Bool.or_true]

/-- Settles O15: RFE is usable after entry, and the pop undoes the push but for the old pair. -/
theorem rfeUndoesEntry : Obligations.RfeUndoesEntry := by
  intro s e
  refine ⟨_, exec_rfe (takeException_usable s e), ?current, srPop_srPush_old s.cp0.sr, ?above, fun _ => rfl, rfl⟩
  all_goals
    apply BitVec.eq_of_getLsbD_eq
    intro j hj
    rw [getLsbD_field _ hj rfl, getLsbD_field s.cp0.sr hj rfl]
    exact srPop_srPush_getLsbD s.cp0.sr _ (by omega) (by omega)

/-- Settles O16: each of the three meanings is its exception alone. -/
theorem unconditionalTraps : Obligations.UnconditionalTraps := fun _ _ _ => ⟨rfl, rfl, rfl⟩

end Sys2Proof.Machine
end

section
/-! The computational instructions (41_computational_immediate.md, 42_three_operand_register.md, 43_shift.md): the
function of each in the terms of its rule. -/

namespace Sys2Proof.Machine

/-! ## The checks of step S6, taken from HazardFree -/

theorem HazardFree.reads {i : Instr} {s : State} {r : Reg} (h : HazardFree i s) (hr : r ∈ delayedSources i) :
    s.ld ≠ some r := h.1 r hr

/-! ## The two shapes -/

theorem computeUnary_computes {i : Instr} {s : State} {rd rs : Reg} {f : Word → Word} (h : s.ld ≠ some rs)
    (hexec : exec i s = computeUnary rd rs f s) : Computes i s rd (f (s.x rs)) :=
  computes_of (hexec.trans (computeUnary_run h))

theorem computeBinary_computes {i : Instr} {s : State} {rd rs rt : Reg} {f : Word → Word → Word} (h : s.ld ≠ some rs)
    (h' : s.ld ≠ some rt) (hexec : exec i s = computeBinary rd rs rt f s) : Computes i s rd (f (s.x rs) (s.x rt)) :=
  computes_of (hexec.trans (computeBinary_run h h'))

/-! ## Immediates -/

theorem signExtImm_toInt (imm : Half) : (signExtImm imm).toInt = imm.toInt :=
  BitVec.toInt_signExtend_of_le (by decide)

theorem zeroExtImm_eq_append (imm : Half) : zeroExtImm imm = 0#16 ++ imm := by
  apply BitVec.eq_of_toNat_eq
  have := imm.isLt
  rw [zeroExtImm, BitVec.toNat_setWidth, toNat_append_add, BitVec.toNat_ofNat]
  omega

/-- Settles O17: each immediate form is one function of its source. -/
theorem immediateResults : Obligations.ImmediateResults := by
  intro rt rs imm s
  rw [← signExtImm_toInt, ← zeroExtImm_eq_append]
  refine ⟨fun h => ?_, fun h => ?_, fun h => ?_, fun h => ?_, fun h => ?_, fun h => ?_, computes_of rfl⟩
  all_goals have hrs : s.ld ≠ some rs := h.reads (by simp [delayedSources])
  · exact computeUnary_computes hrs (exec_addiu rt rs imm s)
  · exact computeUnary_computes hrs (exec_slti rt rs imm s)
  · exact computeUnary_computes hrs (exec_sltiu rt rs imm s)
  · exact computeUnary_computes hrs (exec_andi rt rs imm s)
  · exact computeUnary_computes hrs (exec_ori rt rs imm s)
  · exact computeUnary_computes hrs (exec_xori rt rs imm s)

/-- Settles O18: each three-operand form is one function of its two sources. -/
theorem threeOperandResults : Obligations.ThreeOperandResults := fun rd rs rt s hrs hrt =>
  ⟨computeBinary_computes hrs hrt (exec_addu rd rs rt s), computeBinary_computes hrs hrt (exec_subu rd rs rt s),
    computeBinary_computes hrs hrt (exec_slt rd rs rt s), computeBinary_computes hrs hrt (exec_sltu rd rs rt s),
    computeBinary_computes hrs hrt (exec_and rd rs rt s), computeBinary_computes hrs hrt (exec_or rd rs rt s),
    computeBinary_computes hrs hrt (exec_xor rd rs rt s), computeBinary_computes hrs hrt (exec_nor rd rs rt s)⟩

/-! ## The trapping forms -/

theorem fitsWord_iff (n : Int) : fitsWord n = true ↔ -(2 ^ 31) ≤ n ∧ n < 2 ^ 31 := by
  rw [fitsWord, Bool.and_eq_true, decide_eq_true_iff, decide_eq_true_iff]
  omega

/-- An exact result as a word where it fits, none where it does not (41_computational_immediate.md R161). -/
def exactWord (n : Int) : Option Word := if fitsWord n then some (BitVec.ofInt 32 n) else none

theorem addTrapping_eq (a b : Word) : addTrapping a b = exactWord (a.toInt + b.toInt) := rfl

theorem subTrapping_eq (a b : Word) : subTrapping a b = exactWord (a.toInt - b.toInt) := rfl

/-- An instruction that writes an exact result or takes Ov (60_exceptions.md R275). -/
theorem exactWord_computes_or_traps {i : Instr} {s : State} {rd : Reg} {n : Int}
    (hexec : exec i s = writeOrOverflow rd (exactWord n) s) :
    (-(2 ^ 31) ≤ n ∧ n < 2 ^ 31 → ∃ v : Word, v.toInt = n ∧ Computes i s rd v) ∧
      (n < -(2 ^ 31) ∨ 2 ^ 31 ≤ n → Traps i s .ov) := by
  refine ⟨fun hfits => ?_, fun hout => ?_⟩
  · rw [exactWord, if_pos ((fitsWord_iff n).2 hfits)] at hexec
    exact ⟨_, BitVec.toInt_ofInt_eq_self (by decide) hfits.1 hfits.2, computes_of hexec⟩
  · rw [exactWord, if_neg (fun h => absurd ((fitsWord_iff n).1 h) (by omega))] at hexec
    exact hexec

theorem exec_addi_run {rt rs : Reg} {imm : Half} {s : State} (h : s.ld ≠ some rs) :
    exec (.addi rt rs imm) s = writeOrOverflow rt (addTrapping (s.x rs) (signExtImm imm)) s := reading_free h _

theorem exec_add_run {rd rs rt : Reg} {s : State} (h : s.ld ≠ some rs) (h' : s.ld ≠ some rt) :
    exec (.add rd rs rt) s = writeOrOverflow rd (addTrapping (s.x rs) (s.x rt)) s :=
  (reading_free h _).trans (reading_free h' _)

theorem exec_sub_run {rd rs rt : Reg} {s : State} (h : s.ld ≠ some rs) (h' : s.ld ≠ some rt) :
    exec (.sub rd rs rt) s = writeOrOverflow rd (subTrapping (s.x rs) (s.x rt)) s :=
  (reading_free h _).trans (reading_free h' _)

/-- Settles O19: the three forms write an exact sum or difference or take Ov. -/
theorem trappingArithmetic : Obligations.TrappingArithmetic := by
  intro rd rs rt imm s hrs
  refine ⟨exactWord_computes_or_traps ?_, fun hrt => ⟨exactWord_computes_or_traps ?_, exactWord_computes_or_traps ?_⟩⟩
  · rw [exec_addi_run hrs, addTrapping_eq, signExtImm_toInt]
  · exact exec_add_run hrs hrt
  · exact exec_sub_run hrs hrt

/-! ## The shifts -/

theorem shiftAmount_eq (v : Word) : shiftAmount v = v.toNat % 32 := by
  simp [shiftAmount]

theorem shiftLeft_toNat (v : Word) (n : Nat) : (v <<< n).toNat = v.toNat * 2 ^ n % 2 ^ 32 := by
  rw [BitVec.toNat_shiftLeft, Nat.shiftLeft_eq]

theorem ushiftRight_toNat (v : Word) (n : Nat) : (v >>> n).toNat = v.toNat / 2 ^ n := by
  rw [BitVec.toNat_ushiftRight, Nat.shiftRight_eq_div_pow]

theorem sshiftRight_toInt (v : Word) (n : Nat) : (v.sshiftRight n).toInt = v.toInt / 2 ^ n := by
  rw [BitVec.toInt_sshiftRight, Int.shiftRight_eq_div_pow, Nat.cast_pow, Nat.cast_ofNat]

/-- Settles O20: the three shifts as arithmetic, under a constant and under a register amount. -/
theorem shiftResults : Obligations.ShiftResults := by
  intro rd rt rs shamt s hrt
  refine ⟨⟨_, shiftLeft_toNat _ _, computeUnary_computes hrt (exec_sll rd rt shamt s)⟩,
    ⟨_, ushiftRight_toNat _ _, computeUnary_computes hrt (exec_srl rd rt shamt s)⟩,
    ⟨_, sshiftRight_toInt _ _, computeUnary_computes hrt (exec_sra rd rt shamt s)⟩, fun hrs => ?_⟩
  rw [← shiftAmount_eq]
  exact ⟨⟨_, shiftLeft_toNat _ _, computeBinary_computes hrt hrs (exec_sllv rd rt rs s)⟩,
    ⟨_, ushiftRight_toNat _ _, computeBinary_computes hrt hrs (exec_srlv rd rt rs s)⟩,
    ⟨_, sshiftRight_toInt _ _, computeBinary_computes hrt hrs (exec_srav rd rt rs s)⟩⟩

end Sys2Proof.Machine
end

section
/-! The multiply and divide instructions and the moves of HI and LO (44_multiply_divide.md). -/

namespace Sys2Proof.Machine

/-! ## The frame -/

/-- The write of HI and LO changes nothing else. -/
theorem hiLo_frame (s : State) (hi lo : Word) :
    let t := { s.retire with hi := hi, lo := lo }
    SameRegs s t ∧ SameSystem s t ∧ SameMemory s t ∧ SameWorld s t ∧ t.c2 = s.c2 ∧ Advances s t :=
  ⟨fun _ => rfl, ⟨rfl, rfl⟩, ⟨fun _ => rfl, rfl⟩, ⟨rfl, rfl, rfl⟩, rfl, advances_retire s⟩

/-! ## Products -/

theorem append_extract_64 (p : BitVec 64) : p.extractLsb' 32 32 ++ p.extractLsb' 0 32 = p := by
  apply BitVec.eq_of_toNat_eq
  have := p.isLt
  rw [toNat_append_add, BitVec.extractLsb'_toNat, BitVec.extractLsb'_toNat, Nat.shiftRight_eq_div_pow]
  omega

/-- The product of two words is well inside 64 bits. -/
theorem mulSigned_toInt (a b : Word) : ((mulSigned a b).1 ++ (mulSigned a b).2).toInt = a.toInt * b.toInt := by
  have ha : |a.toInt| ≤ 2 ^ 31 := abs_le.2 ⟨a.le_toInt, a.toInt_lt.le⟩
  have hb : |b.toInt| ≤ 2 ^ 31 := abs_le.2 ⟨b.le_toInt, b.toInt_lt.le⟩
  have hab : |a.toInt * b.toInt| ≤ 2 ^ 31 * 2 ^ 31 := by
    rw [abs_mul]
    exact mul_le_mul ha hb (abs_nonneg _) (by positivity)
  obtain ⟨hlo, hhi⟩ := abs_le.1 hab
  rw [mulSigned, append_extract_64]
  exact BitVec.toInt_ofInt_eq_self (by decide) (by omega) (by omega)

theorem mulUnsigned_toNat (a b : Word) : ((mulUnsigned a b).1 ++ (mulUnsigned a b).2).toNat = a.toNat * b.toNat := by
  have hab : a.toNat * b.toNat < 2 ^ 32 * 2 ^ 32 := Nat.mul_lt_mul'' a.isLt b.isLt
  rw [mulUnsigned, append_extract_64, BitVec.toNat_ofNat]
  exact Nat.mod_eq_of_lt (by omega)

section
variable {rs rt : Reg} {s : State} (hrs : s.ld ≠ some rs) (hrt : s.ld ≠ some rt) (hhi : s.hiAge = 0) (hlo : s.loAge = 0)
include hrs hrt hhi hlo

/-- What MULT, MULTU, DIV and DIVU do where no hazard stops them, for a property of what they leave in HI and LO. -/
theorem computeHiLo_completes {i : Instr} {f : Word → Word → Word × Word} {P : Word → Word → Prop}
    (hexec : exec i s = computeHiLo rs rt f s) (hP : P (f (s.x rs) (s.x rt)).1 (f (s.x rs) (s.x rt)).2) :
    ∃ t, exec i s = .next t ∧ P t.hi t.lo ∧ SameRegs s t ∧ SameSystem s t ∧ SameMemory s t ∧ SameWorld s t ∧
      t.c2 = s.c2 ∧ Advances s t :=
  ⟨_, hexec.trans (computeHiLo_run hrs hrt hhi hlo), hP, hiLo_frame s _ _⟩

end

/-- Settles O21: the two halves of the product are its 64 bits. -/
theorem multiplyProduct : Obligations.MultiplyProduct := fun rs rt s hrs hrt hhi hlo =>
  ⟨computeHiLo_completes hrs hrt hhi hlo (P := fun hi lo => (hi ++ lo).toInt = (s.x rs).toInt * (s.x rt).toInt) rfl
      (mulSigned_toInt _ _),
    computeHiLo_completes hrs hrt hhi hlo (P := fun hi lo => (hi ++ lo).toNat = (s.x rs).toNat * (s.x rt).toNat) rfl
      (mulUnsigned_toNat _ _)⟩

/-! ## Quotients -/

/-- The operands of a division with no defined quotient (44_multiply_divide.md R199). -/
theorem divSigned_corner {a b : Word} (h : b = 0#32 ∨ (a = 0x80000000#32 ∧ b = 0xFFFFFFFF#32)) :
    divSigned a b = Config.divCorner .signed a b := if_pos (by simpa using h)

theorem divUnsigned_corner {a b : Word} (h : b = 0#32) : divUnsigned a b = Config.divCorner .unsigned a b := if_pos h

/-- The quotient rounded toward zero fits a word but in the overflow corner. -/
theorem tdiv_fits {a b : Word} (hb : b ≠ 0#32) (hcorner : ¬(a = 0x80000000#32 ∧ b = 0xFFFFFFFF#32)) :
    -(2 ^ 31) ≤ a.toInt.tdiv b.toInt ∧ a.toInt.tdiv b.toInt < 2 ^ 31 := by
  have hlo := a.le_toInt
  have hhi := a.toInt_lt
  have hb0 : b.toInt ≠ 0 := fun h => hb (BitVec.toInt_inj.1 h)
  by_cases hb1 : b.toInt = -1
  · have ha : a.toInt ≠ -(2 ^ 31) := fun h => hcorner ⟨BitVec.toInt_inj.1 h, BitVec.toInt_inj.1 hb1⟩
    rw [hb1, Int.tdiv_neg, Int.tdiv_one]
    omega
  by_cases hb1' : b.toInt = 1
  · rw [hb1', Int.tdiv_one]
    omega
  have hhalf : (a.toInt.tdiv b.toInt).natAbs ≤ 2 ^ 31 / 2 := by
    rw [Int.natAbs_tdiv]
    exact Nat.div_le_div (by omega) (by omega) (by decide)
  omega

/-- The exact remainder of a division that rounds toward zero: smaller than the divisor, with the dividend's sign. -/
theorem tmod_spec (a : Int) {b : Int} (hb : b ≠ 0) :
    (a.tmod b).natAbs < b.natAbs ∧ (0 ≤ a → 0 ≤ a.tmod b) ∧ (a ≤ 0 → a.tmod b ≤ 0) := by
  refine ⟨?_, Int.tmod_nonneg b, fun ha => ?_⟩
  · rw [Int.natAbs_tmod]
    exact Nat.mod_lt _ (by omega)
  · have := Int.tmod_nonneg b (Int.neg_nonneg_of_nonpos ha)
    rw [Int.neg_tmod] at this
    omega

/-- (hi, lo) of a signed division with a defined quotient are the exact remainder and quotient. -/
theorem divSigned_exact {a b : Word} (hb : b ≠ 0#32) (hcorner : ¬(a = 0x80000000#32 ∧ b = 0xFFFFFFFF#32)) :
    (divSigned a b).1.toInt = a.toInt.tmod b.toInt ∧ (divSigned a b).2.toInt = a.toInt.tdiv b.toInt := by
  have hdiv : divSigned a b =
      (BitVec.ofInt 32 (a.toInt - a.toInt.tdiv b.toInt * b.toInt), BitVec.ofInt 32 (a.toInt.tdiv b.toInt)) :=
    if_neg (by simpa [hb] using hcorner)
  obtain ⟨hqlo, hqhi⟩ := tdiv_fits hb hcorner
  have hb0 : b.toInt ≠ 0 := fun h => hb (BitVec.toInt_inj.1 h)
  obtain ⟨hr, -, -⟩ := tmod_spec a.toInt hb0
  have hblo := b.le_toInt
  have hbhi := b.toInt_lt
  rw [hdiv, Int.mul_comm, ← Int.tmod_def]
  exact ⟨BitVec.toInt_ofInt_eq_self (by decide) (by omega) (by omega),
    BitVec.toInt_ofInt_eq_self (by decide) hqlo hqhi⟩

/-- (hi, lo) of an unsigned division with a defined quotient. -/
theorem divUnsigned_exact {a b : Word} (hb : b ≠ 0#32) :
    (divUnsigned a b).1.toNat = a.toNat % b.toNat ∧ (divUnsigned a b).2.toNat = a.toNat / b.toNat := by
  have ha := a.isLt
  rw [divUnsigned, if_neg hb, BitVec.toNat_ofNat, BitVec.toNat_ofNat]
  exact ⟨Nat.mod_eq_of_lt ((Nat.mod_le _ _).trans_lt ha), Nat.mod_eq_of_lt ((Nat.div_le_self _ _).trans_lt ha)⟩

/-- Settles O22: HI and LO are the exact remainder and quotient, which the division identities relate. -/
theorem divideQuotientRemainder : Obligations.DivideQuotientRemainder := by
  intro rs rt s hrs hrt hhi hlo hne
  refine ⟨fun hcorner => ?signed, ?unsigned⟩
  case signed =>
    refine ⟨_, computeHiLo_run hrs hrt hhi hlo, ?_⟩
    obtain ⟨hr, hq⟩ := divSigned_exact hne hcorner
    have hb0 : (s.x rt).toInt ≠ 0 := fun h => hne (BitVec.toInt_inj.1 h)
    obtain ⟨hsize, hnonneg, hnonpos⟩ := tmod_spec (s.x rs).toInt hb0
    simp only [hr, hq]
    exact ⟨by rw [Int.mul_comm, Int.mul_tdiv_add_tmod], hsize, hnonneg, hnonpos, hiLo_frame s _ _⟩
  case unsigned =>
    refine ⟨_, computeHiLo_run hrs hrt hhi hlo, ?_⟩
    obtain ⟨hr, hq⟩ := divUnsigned_exact (a := s.x rs) hne
    have hb0 : 0 < (s.x rt).toNat := Nat.pos_of_ne_zero fun h => hne (BitVec.eq_of_toNat_eq h)
    simp only [hr, hq]
    exact ⟨by rw [Nat.mul_comm, Nat.div_add_mod], Nat.mod_lt _ hb0, hiLo_frame s _ _⟩

/-- Settles O23. -/
theorem divideCorner : Obligations.DivideCorner := fun rs rt s hrs hrt hhi hlo =>
  ⟨fun hcorner => computeHiLo_completes hrs hrt hhi hlo
      (P := fun hi lo => (hi, lo) = Config.divCorner .signed (s.x rs) (s.x rt)) rfl (divSigned_corner hcorner),
    fun hzero => computeHiLo_completes hrs hrt hhi hlo
      (P := fun hi lo => (hi, lo) = Config.divCorner .unsigned (s.x rs) (s.x rt)) rfl (divUnsigned_corner hzero)⟩

/-! ## The moves -/

theorem exec_mthi_run {r : Reg} {s : State} (h : s.ld ≠ some r) (hage : s.hiAge = 0) :
    exec (.mthi r) s = .next { s.retire with hi := s.x r } :=
  (reading_free h _).trans (hiLoFree_free (hi := true) (lo := false) (fun _ => hage) nofun _)

theorem exec_mtlo_run {r : Reg} {s : State} (h : s.ld ≠ some r) (hage : s.loAge = 0) :
    exec (.mtlo r) s = .next { s.retire with lo := s.x r } :=
  (reading_free h _).trans (hiLoFree_free (hi := false) (lo := true) nofun (fun _ => hage) _)

/-- Settles O24: the moves from HI and LO are results with a counter set, the moves to them write one of the two. -/
theorem movesOfHiAndLo : Obligations.MovesOfHiAndLo := by
  intro r s
  refine ⟨⟨_, rfl, regsAfter_setX s r s.hi, sameRest_setX_retire s r s.hi, ?_⟩,
    ⟨_, rfl, regsAfter_setX s r s.lo, sameRest_setX_retire s r s.lo, ?_⟩, fun hr hage => ?_, fun hr hage => ?_⟩
  · simp
  · simp
  · exact ⟨_, exec_mthi_run hr hage, rfl, rfl, hiLo_frame s (s.x r) s.lo⟩
  · exact ⟨_, exec_mtlo_run hr hage, rfl, rfl, hiLo_frame s s.hi (s.x r)⟩

/-! ## The hazard -/

theorem hiLoFree_hazard {s : State} {hi lo : Bool} (h : (hi = true ∧ 0 < s.hiAge) ∨ (lo = true ∧ 0 < s.loAge))
    (k : Result State) : hiLoFree s hi lo k = .fault .hiLoHazard := if_pos (by simpa using h)

/-- Settles O26. -/
theorem hiLoHazardFaults : Obligations.HiLoHazardFaults := by
  intro rs rt s hrs
  refine ⟨fun hrt hage i hi => ?_, fun hage => ?_, fun hage => ?_⟩
  · simp only [List.mem_cons, List.not_mem_nil, or_false] at hi
    have hstop (k : Result State) := hiLoFree_hazard (s := s) (hi := true) (lo := true) (by simpa using hage) k
    obtain rfl | rfl | rfl | rfl := hi <;> exact (reading_free hrs _).trans ((reading_free hrt _).trans (hstop _))
  · exact (reading_free hrs _).trans (hiLoFree_hazard (.inl ⟨rfl, hage⟩) _)
  · exact (reading_free hrs _).trans (hiLoFree_hazard (.inr ⟨rfl, hage⟩) _)

end Sys2Proof.Machine
end

section
/-! The jumps and the branches without link (45_jump_branch.md R210, R212, R214 to R219). -/

namespace Sys2Proof.Machine

theorem exec_j_run {s : State} (hslot : s.slot = false) (target : BitVec 26) :
    exec (.j target) s = .next (s.retireJump true (jumpTarget s.pc target)) := outsideSlot_free hslot _

theorem exec_jr_run {rs : Reg} {s : State} (hslot : s.slot = false) (hrs : s.ld ≠ some rs) :
    exec (.jr rs) s = .next (s.retireJump true (s.x rs)) := (reading_free hrs _).trans (outsideSlot_free hslot _)

/-- Settles O39. -/
theorem jumpResults : Obligations.JumpResults := fun target _ _ hslot =>
  ⟨jumps_of (iff_of_true rfl trivial) (exec_j_run hslot target),
    fun hrs => jumps_of (iff_of_true rfl trivial) (exec_jr_run hslot hrs)⟩

/-! ## The conditions against zero (R229) -/

theorem isZero_iff (v : Word) : (v == 0#32) = true ↔ v.toInt = 0 := by
  rw [beq_iff_eq, ← BitVec.toInt_inj, BitVec.toInt_zero]

theorem notPositive_iff (v : Word) : (isNegative v || v == 0#32) = true ↔ v.toInt ≤ 0 := by
  rw [Bool.or_eq_true, isNegative_iff, isZero_iff, le_iff_lt_or_eq]

theorem positive_iff (v : Word) : (!isNegative v && v != 0#32) = true ↔ 0 < v.toInt := by
  rw [Bool.and_eq_true, not_isNegative_iff, bne_iff_ne, ne_eq, ← beq_iff_eq, isZero_iff]
  omega

section
variable {rs : Reg} {s : State} (hslot : s.slot = false) (hrs : s.ld ≠ some rs)
include hslot hrs

theorem branchZero_jumps {i : Instr} {cond : Word → Bool} {offset : Half} {p : Prop}
    (hexec : exec i s = branchZero cond rs offset s) (hp : cond (s.x rs) = true ↔ p) :
    Jumps i s p (branchTarget s.pc offset) :=
  jumps_of hp (hexec.trans (branchZero_run hrs hslot))

theorem exec_beq_run {rt : Reg} (hrt : s.ld ≠ some rt) (offset : Half) :
    exec (.beq rs rt offset) s = .next (s.retireJump (s.x rs == s.x rt) (branchTarget s.pc offset)) :=
  (reading_free hrs _).trans <| (reading_free hrt _).trans <| outsideSlot_free hslot _

theorem exec_bne_run {rt : Reg} (hrt : s.ld ≠ some rt) (offset : Half) :
    exec (.bne rs rt offset) s = .next (s.retireJump (s.x rs != s.x rt) (branchTarget s.pc offset)) :=
  (reading_free hrs _).trans <| (reading_free hrt _).trans <| outsideSlot_free hslot _

end

/-- Settles O41: each branch is a transfer on its condition. -/
theorem branchResults : Obligations.BranchResults := fun rs _ offset s hslot hrs =>
  ⟨fun hrt => ⟨jumps_of beq_iff_eq (exec_beq_run hslot hrs hrt offset),
      jumps_of bne_iff_ne (exec_bne_run hslot hrs hrt offset)⟩,
    branchZero_jumps hslot hrs (exec_blez rs offset s) (notPositive_iff _),
    branchZero_jumps hslot hrs (exec_bgtz rs offset s) (positive_iff _),
    branchZero_jumps hslot hrs (exec_bltz rs offset s) (isNegative_iff _),
    branchZero_jumps hslot hrs (exec_bgez rs offset s) (not_isNegative_iff _)⟩

end Sys2Proof.Machine
end

section
/-! Translation in the mapped segments (20_memory.md R80, R82). -/

namespace Sys2Proof.Machine

theorem tlbMiss_eq (kind : AccessKind) (va : Word) (r : Bool) :
    tlbMiss kind va r = if kind = .store then .tlbs va r else .tlbl va r := by cases kind <;> rfl

section
variable {s : State} {va : Word} (kind : AccessKind)

theorem translateMapped_none (h : ∀ i, ¬Matches s i va) :
    translateMapped s.tlb s.cp0.entryHi va kind = .trap (tlbMiss kind va (!va.getLsbD 31)) := by
  rw [translateMapped, tlbHits_none h, getLsbD_31]

theorem translateMapped_one {i : Fin Config.tlbEntries} (h : Matches s i va) (hu : ∀ j, Matches s j va → j = i) :
    translateMapped s.tlb s.cp0.entryHi va kind = throughEntry (s.tlb.get i) va kind := by
  rw [translateMapped, tlbHits_one h hu]

theorem translateMapped_two {i j : Fin Config.tlbEntries} (hi : Matches s i va) (hj : Matches s j va) (h : i ≠ j) :
    translateMapped s.tlb s.cp0.entryHi va kind = .stop .multipleTlbMatch := by
  obtain ⟨a, b, r, hits⟩ := tlbHits_two hi hj h
  rw [translateMapped, hits]

end

section
variable {e : TlbEntry} {va : Word} {kind : AccessKind}

theorem throughEntry_invalid (h : e.valid = false) : throughEntry e va kind = .trap (tlbMiss kind va false) := by
  rw [throughEntry, h]; rfl

theorem throughEntry_clean (hv : e.valid = true) (hk : kind = .store) (hd : e.dirty = false) :
    throughEntry e va kind = .trap (.mod va) := by
  rw [throughEntry, hv, hk, hd]; rfl

theorem throughEntry_hit (hv : e.valid = true) (hd : kind = .store → e.dirty = true) :
    throughEntry e va kind = .done { pa := e.pfn ++ va.extractLsb' 0 12, cacheable := !e.nonCacheable } := by
  rw [throughEntry, if_neg (by simp [hv]), if_neg (by simpa using hd)]

end

/-- Settles O37: the three lengths of the list of hits, and the three answers of the one entry. -/
theorem mappedTranslation : Obligations.MappedTranslation := by
  intro s va kind hpriv hseg
  have htr := translateAddress_mapped kind hpriv hseg
  refine ⟨fun hnone => ?_, fun i hi hu => ?_, fun i j hi hj hne => htr.trans (translateMapped_two kind hi hj hne)⟩
  · rw [htr, translateMapped_none kind hnone, tlbMiss_eq]
  · rw [htr, translateMapped_one kind hi hu]
    refine ⟨fun hv => ?_, throughEntry_clean, fun hv hd => ⟨_, throughEntry_hit hv hd, rfl, ?_⟩⟩
    · rw [throughEntry_invalid hv, tlbMiss_eq]
    · exact .of_eq (Bool.not_eq_true' _)

end Sys2Proof.Machine
end

section
/-! The load delay (70_reset_and_hazards.md R330, R331): the check of every source comes before everything else an
instruction does. -/

namespace Sys2Proof.Machine

/-- The outcome o of an instruction with these sources is the load-delay fault where one of them was just loaded. -/
def FaultsOnDelay (sources : List Reg) (s : State) (o : Result State) : Prop :=
  ∀ r ∈ sources, s.ld = some r → o = .fault .loadDelay

theorem FaultsOnDelay.nil {s : State} {o : Result State} : FaultsOnDelay [] s o := nofun

theorem FaultsOnDelay.reading {sources : List Reg} {s : State} {r : Reg} {k : Result State}
    (h : FaultsOnDelay sources s k) : FaultsOnDelay (r :: sources) s (reading s r k) := by
  intro q hq hld
  by_cases hr : s.ld = some r
  · exact reading_delayed hr k
  · rw [reading_free hr]
    obtain rfl | hq := List.mem_cons.1 hq
    · exact absurd hld hr
    · exact h q hq hld

theorem FaultsOnDelay.swap {a b : Reg} {s : State} {o : Result State} (h : FaultsOnDelay [a, b] s o) :
    FaultsOnDelay [b, a] s o := fun r hr => h r ((List.Perm.swap b a []).mem_iff.2 hr)

/-- The operand check of a linking form lets a well-formed one through. -/
theorem FaultsOnDelay.operandsOk {sources : List Reg} {s : State} {o refusal : Result State} {ok : Bool}
    (h : FaultsOnDelay sources s o) (hok : ok = true) : FaultsOnDelay sources s (if ok then o else refusal) := by
  rwa [if_pos hok]

/-- The cases are the number of sources; SLLV, SRLV and SRAV read theirs in the other order. -/
theorem exec_faultsOnDelay {i : Instr} {s : State} (hwf : i.wf = true) :
    FaultsOnDelay (delayedSources i) s (exec i s) := by
  cases i with
  | lui | mfhi | mflo | j | jal | syscall | brk | reserved | mfc0 | mfc1 | mfc2 | mfc3 | cfc0 | cfc1 | cfc2 | cfc3
  | bc0f | bc0t | bc1f | bc1t | bc2f | bc2t | bc3f | bc3t | cop1 | cop2 | cop3 | tlbr | tlbwi | tlbwr | tlbp | rfe =>
    exact .nil
  | lb | lbu | lh | lhu | lw | lwl | lwr | addi | addiu | slti | sltiu | andi | ori | xori | sll | srl | sra | mthi | mtlo
  | jr | blez | bgtz | bltz | bgez | lwc0 | lwc1 | lwc2 | lwc3 | swc0 | swc1 | swc2 | swc3 | mtc0 | mtc1 | mtc2 | mtc3
  | ctc0 | ctc1 | ctc2 | ctc3 => exact .reading .nil
  | sb | sh | sw | swl | swr | add | addu | sub | subu | and | or | xor | nor | slt | sltu | mult | multu | div | divu
  | beq | bne => exact .reading (.reading .nil)
  | sllv | srlv | srav => exact .swap (.reading (.reading .nil))
  | jalr | bltzal | bgezal => exact .operandsOk (.reading .nil) hwf

/-- Settles O43. -/
theorem loadDelayFaults : Obligations.LoadDelayFaults := fun _ _ r hwf hld hr => exec_faultsOnDelay hwf r hr hld

end Sys2Proof.Machine
end

section
/-! The coprocessor instructions (47_coprocessor.md R235 to R248): CpU where the coprocessor is not usable, the named
stops where it is usable and absent, and the interface of coprocessor 2. -/

namespace Sys2Proof.Machine

theorem HazardFree.outsideSlot {i : Instr} {s : State} (h : HazardFree i s) (hj : isJump i = true) : s.slot = false :=
  h.2.1 hj

/-! ## CpU -/

/-- usable(z) is false without SR.CU[z], for z = 0 in user mode (R235). -/
theorem not_usable_of_cu {s : State} {z : BitVec 2} (hcu : s.cp0.sr.getLsbD (28 + z.toNat) = false)
    (hz : z ≠ 0#2 ∨ s.cp0.sr.getLsbD 1 = true) : s.usable z = false := by
  have hcu : srCu s.cp0.sr z = false := hcu
  have hz : z ≠ 0#2 ∨ srKuc s.cp0.sr = true := hz
  obtain hz | hz := hz <;> simp [State.usable, hcu, hz]

/-- Settles O51: the usability check comes right after the checks of step S6. -/
theorem unusableCoprocessorTraps : Obligations.UnusableCoprocessorTraps := by
  intro i s z hcop hcu hz hfree
  have hu := not_usable_of_cu hcu hz
  have hread {r : Reg} (hr : r ∈ delayedSources i) := hfree.reads hr
  have hslot := hfree.outsideSlot
  cases i with
  | mfc0 | cfc0 | tlbr | tlbwi | tlbwr | tlbp | rfe | mfc1 | cfc1 | cop1 | mfc2 | cfc2 | cop2 | mfc3 | cfc3 | cop3 =>
    cases hcop
    exact withCop_unusable hu _
  | mtc0 | ctc0 | mtc1 | ctc1 | mtc2 | ctc2 | mtc3 | ctc3 | lwc0 | lwc1 | lwc2 | lwc3 | swc0 | swc1 | swc2 | swc3 =>
    cases hcop
    exact (reading_free (hread (.head _)) _).trans (withCop_unusable hu _)
  | bc0f | bc0t | bc1f | bc1t | bc2f | bc2t | bc3f | bc3t =>
    cases hcop
    exact (outsideSlot_free (hslot rfl) _).trans (withCop_unusable hu _)
  | _ => cases hcop

/-! ## Where the coprocessor is usable -/

section
variable {i : Instr} {s : State} {z : BitVec 2} (hu : CopUsable i s) (hz : coprocessorOf i = some z)
include hu hz

theorem exec_withCop {k : Result State} (hexec : exec i s = withCop s z k) : exec i s = k :=
  hexec.trans (withCop_usable (hu.usable hz) k)

variable (hfree : HazardFree i s)
include hfree

theorem exec_reading_withCop {r : Reg} {k : Result State} (hr : r ∈ delayedSources i)
    (hexec : exec i s = reading s r (withCop s z k)) : exec i s = k :=
  hexec.trans <| (reading_free (hfree.reads hr) _).trans <| withCop_usable (hu.usable hz) k

theorem exec_outsideSlot_withCop {k : Result State} (hj : isJump i = true)
    (hexec : exec i s = outsideSlot s (withCop s z k)) : exec i s = k :=
  hexec.trans <| (outsideSlot_free (hfree.outsideSlot hj) _).trans <| withCop_usable (hu.usable hz) k

variable {base : Reg} {offset : Half} {k : Word → Result State} (hr : base ∈ delayedSources i)
include hr

/-- A coprocessor load past its checks is the access and what takes its word (R236). -/
theorem exec_copLoad (hexec : exec i s = copLoad z base offset s k) :
    exec i s = ((checkAligned .load (effectiveAddress (s.x base) offset) 4).andThen fun _ =>
      memRead s (effectiveAddress (s.x base) offset) 4).finish s k :=
  exec_reading_withCop hu hz hfree hr hexec

theorem exec_copLoad_ready {pa : Word} (hexec : exec i s = copLoad z base offset s k)
    (halign : (effectiveAddress (s.x base) offset).toNat % 4 = 0)
    (hready : LoadReady s (effectiveAddress (s.x base) offset) 4 pa) : exec i s = k (Memory.readWord s.mem pa) := by
  rw [exec_copLoad hu hz hfree hr hexec, checkAligned_ok halign, Access.andThen_done, memRead_ready hready,
    Access.finish_done]
  rfl

/-- A coprocessor store past its checks is the alignment check and what follows it (R237). -/
theorem exec_copStore (hexec : exec i s = copStore z base offset s k) :
    exec i s = (checkAligned .store (effectiveAddress (s.x base) offset) 4).finish s fun _ =>
      k (effectiveAddress (s.x base) offset) :=
  exec_reading_withCop hu hz hfree hr hexec

theorem exec_copStore_aligned (hexec : exec i s = copStore z base offset s k)
    (halign : (effectiveAddress (s.x base) offset).toNat % 4 = 0) :
    exec i s = k (effectiveAddress (s.x base) offset) := by
  rw [exec_copStore hu hz hfree hr hexec, checkAligned_ok halign, Access.finish_done]

/-- A store that stops after the alignment check stops or takes AdES. -/
theorem exec_copStore_stop {o : Result State} (hexec : exec i s = copStore z base offset s fun _ => o) :
    if (effectiveAddress (s.x base) offset).toNat % 4 = 0 then exec i s = o
    else Traps i s (.ades (effectiveAddress (s.x base) offset)) := by
  split
  · next halign => exact exec_copStore_aligned hu hz hfree hr hexec halign
  · next halign =>
    rw [Traps, exec_copStore hu hz hfree hr hexec, checkAligned_bad halign, Access.finish_trap]
    rfl

end

/-- Settles O52: what stands behind the usability check of each of these instructions is its stop. -/
theorem stopsOfUsableCoprocessors : Obligations.StopsOfUsableCoprocessors := by
  intro rt rd offset cofun s
  simp only [List.forall_mem_cons, List.not_mem_nil, false_imp_iff, implies_true, and_true]
  refine ⟨?absent, ?absentStores, ?absentLoads, ?noPath, ?swc0, ?lwc0, ?condition⟩
  case absent =>
    refine ⟨?mfc1, ?cfc1, ?mtc1, ?ctc1, ?bc1f, ?bc1t, ?cop1, ?mfc3, ?cfc3, ?mtc3, ?ctc3, ?bc3f, ?bc3t, ?cop3⟩ <;>
      intro hu hfree
    case mfc1 | cfc1 | cop1 | mfc3 | cfc3 | cop3 => exact exec_withCop hu rfl rfl
    case mtc1 | ctc1 | mtc3 | ctc3 => exact exec_reading_withCop hu rfl hfree (.head _) rfl
    case bc1f | bc1t | bc3f | bc3t => exact exec_outsideSlot_withCop hu rfl hfree rfl rfl
  case absentStores =>
    exact ⟨fun hu hfree => exec_copStore_stop hu rfl hfree (.head _) rfl,
      fun hu hfree => exec_copStore_stop hu rfl hfree (.head _) rfl⟩
  case absentLoads =>
    exact ⟨fun hu hfree halign ⟨_, hready⟩ => exec_copLoad_ready hu rfl hfree (.head _) rfl halign hready,
      fun hu hfree halign ⟨_, hready⟩ => exec_copLoad_ready hu rfl hfree (.head _) rfl halign hready⟩
  case noPath =>
    exact ⟨fun hu _ => exec_withCop hu rfl rfl, fun hu hfree => exec_reading_withCop hu rfl hfree (.head _) rfl⟩
  case swc0 => exact fun hu hfree => exec_copStore_stop hu rfl hfree (.head _) rfl
  case lwc0 => exact fun hu hfree halign ⟨_, hready⟩ => exec_copLoad_ready hu rfl hfree (.head _) rfl halign hready
  case condition =>
    exact ⟨fun hu hfree => exec_outsideSlot_withCop hu rfl hfree rfl rfl,
      fun hu hfree => exec_outsideSlot_withCop hu rfl hfree rfl rfl⟩

/-! ## Coprocessor 2 -/

theorem usable_of_cu {s : State} {z : BitVec 2} (h : s.cp0.sr.getLsbD (28 + z.toNat) = true) : s.usable z = true := by
  have h : srCu s.cp0.sr z = true := h
  simp only [State.usable, h, Bool.true_or]

/-- An action of the device, under its interface (10_state.md R44). -/
theorem cop2_frame (s : State) (c : Nat) :
    let t := { s.retire with c2 := c }
    SameRegs s t ∧ SameHiLo s t ∧ SameSystem s t ∧ SameMemory s t ∧ SameWorld s t ∧ Advances s t :=
  ⟨fun _ => rfl, ⟨rfl, rfl⟩, ⟨rfl, rfl⟩, ⟨fun _ => rfl, rfl⟩, ⟨rfl, rfl, rfl⟩, advances_retire s⟩

/-- A move from the device, delayed like a load (47_coprocessor.md R248). -/
theorem cop2Load_frame (s : State) (rt : Reg) (v : Word) (c : Nat) :
    let t := { s.retireLoad rt v with c2 := c }
    SameHiLo s t ∧ SameSystem s t ∧ SameMemory s t ∧ SameWorld s t ∧ AdvancesLoad s t rt := by
  obtain ⟨hhilo, hsystem, hmemory, hworld, -⟩ := sameRest_retireLoad s rt v
  exact ⟨hhilo, hsystem, hmemory, hworld, advancesLoad_retireLoad s rt v⟩

/-- Settles O53: each of the seven is its action of the device once coprocessor 2 is usable. -/
theorem cop2Instructions : Obligations.Cop2Instructions := by
  intro rt rd offset cofun s hcu
  have hu : s.usable 2#2 = true := usable_of_cu hcu
  refine ⟨fun hrt => ⟨?mtc2, ?ctc2⟩, ?mfc2, ?cfc2, ?cop2, fun hslot => ⟨?bc2f, ?bc2t⟩⟩
  case mtc2 | ctc2 => exact ⟨_, (reading_free hrt _).trans (withCop_usable hu _), rfl, cop2_frame s _⟩
  case mfc2 | cfc2 =>
    exact ⟨_, withCop_usable hu _, regsAfter_retireLoad s rt _, rfl, cop2Load_frame s rt _ _⟩
  case cop2 => exact ⟨_, withCop_usable hu _, rfl, cop2_frame s _⟩
  case bc2f =>
    exact jumps_of (taken := !Config.cop2Cond s.c2) (.of_eq (Bool.not_eq_true' _))
      ((outsideSlot_free hslot _).trans (withCop_usable hu _))
  case bc2t => exact jumps_of Iff.rfl ((outsideSlot_free hslot _).trans (withCop_usable hu _))

end Sys2Proof.Machine
end

section
/-! The instructions of coprocessor 0: MTC0, MFC0 and the TLB instructions (48_cop0.md R250 to R255). -/

namespace Sys2Proof.Machine

/-! ## Fields as masks -/

theorem eq_and_mask {v w m : Word}
    (h : ∀ k < 32, w.getLsbD k = if m.getLsbD k = true then v.getLsbD k else false) : w = v &&& m := by
  apply BitVec.eq_of_getLsbD_eq
  intro k hk
  rw [h k hk, BitVec.getLsbD_and]
  cases m.getLsbD k <;> simp

theorem eq_or_masks {a b w m m' : Word} (hm : m' = ~~~m)
    (h : ∀ k < 32, w.getLsbD k = if m.getLsbD k = true then b.getLsbD k else a.getLsbD k) :
    w = (a &&& m') ||| (b &&& m) := by
  apply BitVec.eq_of_getLsbD_eq
  intro k hk
  rw [h k hk, hm, BitVec.getLsbD_or, BitVec.getLsbD_and, BitVec.getLsbD_and, BitVec.getLsbD_not, decide_eq_true hk]
  cases m.getLsbD k <;> simp

theorem mask_from_8 : ∀ k < 32, (0xFFFFFF00#32).getLsbD k = true ↔ ¬k < 8 := by decide

theorem mask_below_21 : ∀ k < 32, (0x001FFFFF#32).getLsbD k = true ↔ k < 21 := by decide

theorem mask_8_9 : ∀ k < 32, (0x00000300#32).getLsbD k = true ↔ k = 8 ∨ k = 9 := by decide

theorem mask_index : ∀ k < 32, (0x80003F00#32).getLsbD k = true ↔ k = 31 ∨ (8 ≤ k ∧ k < 14) := by decide

theorem mask_random : ∀ k < 32, (0x00003F00#32).getLsbD k = true ↔ 8 ≤ k ∧ k < 14 := by decide

theorem mask_not_19 : ∀ k < 32, (0xFFF7FFFF#32).getLsbD k = true ↔ k ≠ 19 := by decide

theorem mask_from_16 : ∀ k < 32, (0xFFFF0000#32).getLsbD k = true ↔ 16 ≤ k := by decide

theorem entryLoWrite_eq_mask (v : Word) : v.extractLsb' 8 24 ++ 0#8 = v &&& 0xFFFFFF00#32 :=
  eq_and_mask fun k hk => by
    rw [BitVec.getLsbD_append, if_congr (mask_from_8 k hk) rfl rfl, ite_not, BitVec.getLsbD_zero]
    exact ite_congr rfl (fun _ => rfl) fun h => getLsbD_field v (by omega) (by omega)

theorem entryHiWrite_eq_mask (v : Word) : v.extractLsb' 6 26 ++ 0#6 = v &&& 0xFFFFFFC0#32 :=
  eq_and_mask fun k hk => by
    rw [BitVec.getLsbD_append, mask_from_6 k hk, BitVec.getLsbD_zero]
    by_cases h : k < 6
    · rw [if_pos h, if_neg (by simpa using h)]
    · rw [if_neg h, if_pos (by simpa using h)]
      exact getLsbD_field v (by omega) (by omega)

/-- MTC0 writes PTEBase and keeps the other bits of Context. -/
theorem contextWrite_eq_masks (context v : Word) :
    v.extractLsb' 21 11 ++ context.extractLsb' 0 21 = (v &&& 0xFFE00000#32) ||| (context &&& 0x001FFFFF#32) :=
  eq_or_masks (by decide) fun k hk => by
    rw [BitVec.getLsbD_append, if_congr (mask_below_21 k hk) rfl rfl]
    exact ite_congr rfl (fun h => getLsbD_field context h (Nat.zero_add k))
      fun h => getLsbD_field v (by omega) (by omega)

theorem srWrite_eq_masks (sr v : Word) : srWrite sr v = (sr &&& 0x0DB800C0#32) ||| (v &&& 0xF247FF3F#32) :=
  eq_or_masks (by decide) fun k hk => srWrite_getLsbD sr v k hk

theorem causeWrite_eq_masks (cause v : Word) :
    causeWrite cause v = (cause &&& 0xFFFFFCFF#32) ||| (v &&& 0x00000300#32) :=
  eq_or_masks (by decide) fun k hk => by rw [causeWrite_getLsbD _ _ k hk, if_congr (mask_8_9 k hk) rfl rfl]

theorem indexWord_eq_mask (i : Word) : indexWord (indexP i) (indexOf i) = i &&& 0x80003F00#32 :=
  eq_and_mask fun k hk => by
    rw [indexWord_getLsbD _ _ k hk, if_congr (mask_index k hk) rfl rfl]
    by_cases h31 : k = 31
    · rw [if_pos h31, if_pos (.inl h31)]
      exact getLsbD_field i (by omega) (by omega)
    · rw [if_neg h31, if_congr (or_iff_right h31) rfl rfl]
      exact ite_congr rfl (fun h => getLsbD_field i (by omega) (by omega)) fun _ => rfl

theorem randomWord_eq_mask (r : Word) : randomWord (indexOf r) = r &&& 0x00003F00#32 :=
  eq_and_mask fun k hk => by
    rw [randomWord_getLsbD _ k hk, if_congr (mask_random k hk) rfl rfl]
    exact ite_congr rfl (fun h => getLsbD_field r (by omega) (by omega)) fun _ => rfl

/-- SR reads as stored but for bit 19 (48_cop0.md R251). -/
theorem srRead_eq_but_19 (sr : Word) (cm : BitVec 1) : srRead sr cm &&& 0xFFF7FFFF#32 = sr &&& 0xFFF7FFFF#32 :=
  eq_and_mask fun k hk => by
    rw [BitVec.getLsbD_and]
    by_cases h : (0xFFF7FFFF#32).getLsbD k = true
    · rw [if_pos h, h, Bool.and_true, srRead_getLsbD sr cm k hk ((mask_not_19 k hk).1 h)]
    · rw [if_neg h, Bool.eq_false_iff.2 h, Bool.and_false]

/-- The upper half of PRId reads as 0 (10_state.md R41). -/
theorem pridValue_upper : Config.pridValue &&& 0xFFFF0000#32 = 0#32 :=
  (and_eq_zero_iff _ _).2 fun k hk hm => by
    have := (mask_from_16 k hk).1 hm
    rw [Config.pridValue, BitVec.getLsbD_append, if_neg (by omega), BitVec.getLsbD_zero]

/-! ## MTC0 -/

/-- The registers that have a number in the spec (10_state.md R31). -/
def NamedCp0Number (rd : Reg) : Prop := rd ∈ [0#5, 1#5, 2#5, 4#5, 8#5, 10#5, 12#5, 13#5, 14#5, 15#5]

/-- What an MTC0 of v to register rd makes of coprocessor 0 (48_cop0.md R250, R258). -/
structure WritesCp0 (c : Cp0) (rd : Reg) (v : Word) (c' : Cp0) : Prop where
  index : rd = 0#5 → ∃ p : BitVec 1, c' = { c with index := p ++ 0#17 ++ v.extractLsb' 8 6 ++ 0#8 }
  entryLo : rd = 2#5 → c' = { c with entryLo := v &&& 0xFFFFFF00#32 }
  context : rd = 4#5 → c' = { c with context := (v &&& 0xFFE00000#32) ||| (c.context &&& 0x001FFFFF#32) }
  entryHi : rd = 10#5 → c' = { c with entryHi := v &&& 0xFFFFFFC0#32 }
  sr : rd = 12#5 → c' = { c with sr := (c.sr &&& 0x0DB800C0#32) ||| (v &&& 0xF247FF3F#32) }
  cause : rd = 13#5 → c' = { c with cause := (c.cause &&& 0xFFFFFCFF#32) ||| (v &&& 0x00000300#32) }
  kept : rd ∈ [1#5, 8#5, 14#5, 15#5] → c' = c

theorem indexWord_form (p : BitVec 1) (v : Word) :
    ∃ q : BitVec 1, indexWord p (indexOf v) = q ++ 0#17 ++ v.extractLsb' 8 6 ++ 0#8 := ⟨p, rfl⟩

theorem writeCp0_named (s : State) {rd : Reg} (v : Word) (h : NamedCp0Number rd) :
    ∃ c, writeCp0 s rd v = some c ∧ WritesCp0 s.cp0 rd v c := by
  simp only [NamedCp0Number, List.mem_cons, List.not_mem_nil, or_false] at h
  obtain rfl | rfl | rfl | rfl | rfl | rfl | rfl | rfl | rfl | rfl := h <;> refine ⟨_, rfl, ?_⟩ <;>
    constructor <;>
    simp [← entryLoWrite_eq_mask, ← contextWrite_eq_masks, ← entryHiWrite_eq_mask, ← srWrite_eq_masks,
      ← causeWrite_eq_masks, indexWord_form]

theorem exec_mtc0_run {rt rd : Reg} {s : State} {c : Cp0} (hd : s.ld ≠ some rt) (hu : CopUsable (.mtc0 rt rd) s)
    (hsr : rd = 12#5 → (s.x rt).getLsbD 25 = false ∧ (s.x rt).getLsbD 17 = false)
    (hc : writeCp0 s rd (s.x rt) = some c) : exec (.mtc0 rt rd) s = .next { s.retire with cp0 := c } := by
  have hre : rd = 12#5 → srRe (s.x rt) = false := fun h => (hsr h).1
  have hswc : rd = 12#5 → srSwc (s.x rt) = false := fun h => (hsr h).2
  rw [exec_mtc0, execMtc0, reading_free hd, withCop_usable (hu.usable rfl), hc, if_neg (by simpa using hre),
    if_neg (by simpa using hswc)]

/-- Settles O55: MTC0 past its two stops is the write of the register, field by field. -/
theorem mtc0WritesRegister : Obligations.Mtc0WritesRegister := by
  intro rt rd s hd hu hrd hsr
  obtain ⟨c, hc, hw⟩ := writeCp0_named s (s.x rt) hrd
  exact ⟨_, exec_mtc0_run hd hu hsr hc, fun _ => rfl, ⟨rfl, rfl⟩, rfl, ⟨fun _ => rfl, rfl⟩, ⟨rfl, rfl, rfl⟩, rfl,
    advances_retire s, hw.index, hw.entryLo, hw.context, hw.entryHi, hw.sr, hw.cause, hw.kept⟩

/-! ## MFC0 -/

/-- What an MFC0 from register rd reads (48_cop0.md R251). -/
structure ReadsCp0 (c : Cp0) (rd : Reg) (v : Word) : Prop where
  index : rd = 0#5 → v = c.index &&& 0x80003F00#32
  random : rd = 1#5 → v = c.random &&& 0x00003F00#32
  entryLo : rd = 2#5 → v = c.entryLo
  context : rd = 4#5 → v = c.context
  badVAddr : rd = 8#5 → v = c.badVAddr
  entryHi : rd = 10#5 → v = c.entryHi
  sr : rd = 12#5 → v &&& 0xFFF7FFFF#32 = c.sr &&& 0xFFF7FFFF#32
  cause : rd = 13#5 → v = c.cause
  epc : rd = 14#5 → v = c.epc
  prid : rd = 15#5 → v &&& 0xFFFF0000#32 = 0#32

theorem readCp0_named (s : State) {rd : Reg} (h : NamedCp0Number rd) :
    ∃ v, readCp0 s rd = some v ∧ ReadsCp0 s.cp0 rd v := by
  simp only [NamedCp0Number, List.mem_cons, List.not_mem_nil, or_false] at h
  obtain rfl | rfl | rfl | rfl | rfl | rfl | rfl | rfl | rfl | rfl := h <;> refine ⟨_, rfl, ?_⟩ <;>
    constructor <;>
    simp [indexWord_eq_mask, randomWord_eq_mask, srRead_eq_but_19, pridValue_upper]

/-- Settles O57: MFC0 is a load of what readCp0 gives. -/
theorem mfc0ReadsRegister : Obligations.Mfc0ReadsRegister := by
  intro rt rd s hu hrd
  obtain ⟨v, hv, hr⟩ := readCp0_named s hrd
  have hexec : exec (.mfc0 rt rd) s = .next (s.retireLoad rt v) := by
    rw [exec_mfc0, execMfc0, withCop_usable (hu.usable rfl), hv]
  exact ⟨v, loads_of hexec, hr.index, hr.random, hr.entryLo, hr.context, hr.badVAddr, hr.entryHi, hr.sr, hr.cause, hr.epc,
    hr.prid⟩

/-! ## The TLB instructions -/

theorem entryNumber_eq {i : Fin Config.tlbEntries} {v : Word} (h : i.val = (v.extractLsb' 8 6).toNat) :
    entryNumber (indexOf v) = i := Fin.ext h.symm

theorem exec_tlbr_run {s : State} (h : s.usable 0#2 = true) :
    exec .tlbr s = .next (s.readTlb (indexOf s.cp0.index)).retire := withCop_usable h _

theorem exec_tlbwi_run {s : State} (h : s.usable 0#2 = true) :
    exec .tlbwi s = .next (s.writeTlb (indexOf s.cp0.index)).retire := withCop_usable h _

theorem exec_tlbwr_run {s : State} (h : s.usable 0#2 = true) :
    exec .tlbwr s = .next (s.writeTlb (indexOf s.cp0.random)).retire := withCop_usable h _

/-- The write of entry n changes nothing but that entry. -/
theorem writeTlb_frame (s : State) (n : BitVec 6) :
    let t := (s.writeTlb n).retire
    (∀ i : Fin Config.tlbEntries, t.tlb.get i =
      if i.val = n.toNat then { hi := s.cp0.entryHi, lo := s.cp0.entryLo } else s.tlb.get i) ∧
    t.cp0 = s.cp0 ∧ SameRegs s t ∧ SameHiLo s t ∧ SameMemory s t ∧ SameWorld s t ∧ t.c2 = s.c2 ∧ Advances s t :=
  ⟨writeTlb_get s n, rfl, fun _ => rfl, ⟨rfl, rfl⟩, ⟨fun _ => rfl, rfl⟩, ⟨rfl, rfl, rfl⟩, rfl,
    advances_retire (s.writeTlb n)⟩

/-- Settles O59. -/
theorem tlbReadAndWrite : Obligations.TlbReadAndWrite := by
  intro s hu
  have hu : s.usable 0#2 = true := hu.usable rfl
  refine ⟨⟨_, exec_tlbr_run hu, fun i hi => ?_, rfl, fun _ => rfl, ⟨rfl, rfl⟩, ⟨fun _ => rfl, rfl⟩, ⟨rfl, rfl, rfl⟩, rfl,
    advances_retire (s.readTlb _)⟩, ?_⟩
  · rw [State.retire_cp0, State.readTlb_cp0, entryNumber_eq hi]
  · simp only [List.forall_mem_cons, List.not_mem_nil, false_imp_iff, implies_true, and_true]
    exact ⟨⟨_, exec_tlbwi_run hu, writeTlb_frame s _⟩, ⟨_, exec_tlbwr_run hu, writeTlb_frame s _⟩⟩

/-- A write of coprocessor 0 alone. -/
theorem cp0_frame (s : State) (c : Cp0) :
    let t := { s.retire with cp0 := c }
    t.tlb = s.tlb ∧ SameRegs s t ∧ SameHiLo s t ∧ SameMemory s t ∧ SameWorld s t ∧ t.c2 = s.c2 ∧ Advances s t :=
  ⟨rfl, fun _ => rfl, ⟨rfl, rfl⟩, ⟨fun _ => rfl, rfl⟩, ⟨rfl, rfl, rfl⟩, rfl, advances_retire s⟩

/-- The number of an entry in the Index field, with P clear (10_state.md R32). -/
theorem indexWord_entry (i : Fin Config.tlbEntries) :
    indexWord 0#1 (BitVec.ofNat 6 i.val) = BitVec.ofNat 32 (256 * i.val) := by
  have : i.val < 64 := i.isLt
  apply BitVec.eq_of_toNat_eq
  simp only [indexWord, toNat_append_add, BitVec.toNat_ofNat]
  omega

section
variable {s : State} (hu : s.usable 0#2 = true)
include hu

theorem exec_tlbp_none (h : ∀ i, ¬Matches s i s.cp0.entryHi) :
    exec .tlbp s =
      .next { s.retire with cp0 := { s.cp0 with index := indexWord 1#1 (Config.indexField s.tick) } } := by
  refine (withCop_usable hu _).trans ?_
  rw [withTlb_eq, tlbHits_none h]

theorem exec_tlbp_one {i : Fin Config.tlbEntries} (hi : Matches s i s.cp0.entryHi)
    (hone : ∀ j, Matches s j s.cp0.entryHi → j = i) :
    exec .tlbp s = .next { s.retire with cp0 := { s.cp0 with index := BitVec.ofNat 32 (256 * i.val) } } := by
  refine (withCop_usable hu _).trans ?_
  rw [withTlb_eq, tlbHits_one hi hone, ← indexWord_entry]

theorem exec_tlbp_two {i j : Fin Config.tlbEntries} (hi : Matches s i s.cp0.entryHi) (hj : Matches s j s.cp0.entryHi)
    (hne : i ≠ j) : exec .tlbp s = .fault .multipleTlbMatch := by
  obtain ⟨a, b, r, hits⟩ := tlbHits_two hi hj hne
  refine (withCop_usable hu _).trans ?_
  rw [withTlb_eq, hits]

end

/-- Settles O60: the three lengths of the list of hits. -/
theorem tlbProbe : Obligations.TlbProbe := by
  intro s hu
  have hu : s.usable 0#2 = true := hu.usable rfl
  exact ⟨fun i hi hone => ⟨_, exec_tlbp_one hu hi hone, rfl, cp0_frame s _⟩,
    fun hnone => ⟨_, exec_tlbp_none hu hnone, ⟨_, rfl⟩, cp0_frame s _⟩,
    fun i j hi hj hne => exec_tlbp_two hu hi hj hne⟩

end Sys2Proof.Machine
end

section
/-! The loads and stores that reach memory (40_load_store.md R141 to R154, 20_memory.md R64): values, merges, written
bytes and the unaligned pairs. -/

namespace Sys2Proof.Machine

/-! ## Values of loads -/

theorem signExtByte_setWidth (b : Byte) : signExtByte (b.setWidth 32) = b.signExtend 32 := by
  simp [signExtByte]

theorem signExtHalf_setWidth (h : Half) : signExtHalf (h.setWidth 32) = h.signExtend 32 := by
  simp [signExtHalf]

theorem byte_setWidth_eq_append (b : Byte) : b.setWidth 32 = 0#24 ++ b := by
  apply BitVec.eq_of_toNat_eq
  have := b.isLt
  rw [BitVec.toNat_setWidth, toNat_append_add, BitVec.toNat_ofNat]
  omega

theorem half_setWidth_eq_append (b1 b0 : Byte) : (b1 ++ b0 : Half).setWidth 32 = 0#16 ++ b1 ++ b0 := by
  apply BitVec.eq_of_toNat_eq
  have := (b1 ++ b0 : Half).isLt
  rw [BitVec.toNat_setWidth, toNat_append_add (0#16 ++ b1), toNat_append_add 0#16, toNat_append_add b1 b0,
    BitVec.toNat_ofNat] at *
  omega

theorem readSize_one (m : Memory) (pa : Word) : Memory.readSize m pa 1 = (Memory.read m pa.toNat).setWidth 32 := rfl

/-- A halfword access at an even address does not wrap. -/
theorem LoadReady.readSize_two {s : State} {va pa : Word} (h : LoadReady s va 2 pa) (halign : va.toNat % 2 = 0) :
    Memory.readSize s.mem pa 2 =
      (Memory.read s.mem (pa.toNat + 1) ++ Memory.read s.mem pa.toNat : Half).setWidth 32 := by
  have := h.low
  have := pa.isLt
  rw [← Memory.readHalf_eq s.mem pa (by omega)]
  rfl

/-- A word access at a multiple of four does not wrap. -/
theorem LoadReady.readSize_four {s : State} {va pa : Word} (h : LoadReady s va 4 pa) (halign : va.toNat % 4 = 0) :
    Memory.readSize s.mem pa 4 = Memory.read s.mem (pa.toNat + 3) ++ Memory.read s.mem (pa.toNat + 2) ++
      Memory.read s.mem (pa.toNat + 1) ++ Memory.read s.mem pa.toNat := by
  have := h.low
  have := pa.isLt
  exact Memory.readWord_eq s.mem pa (by omega)

/-- An aligned load of the sized shape that reaches memory. -/
theorem loadSized_loads {i : Instr} {n : Nat} {ext : Word → Word} {rt base : Reg} {offset : Half} {s : State} {pa : Word}
    (hexec : exec i s = loadSized n ext rt base offset s) (hbase : s.ld ≠ some base)
    (halign : (effectiveAddress (s.x base) offset).toNat % n = 0)
    (hready : LoadReady s (effectiveAddress (s.x base) offset) n pa) :
    Loads i s rt (ext (Memory.readSize s.mem pa n)) :=
  loads_of (hexec.trans (loadSized_run hbase halign hready))

/-- Settles O27: each load is its extension of the bytes read. -/
theorem loadResults : Obligations.LoadResults := by
  intro rt base offset s pa hbase va byte
  refine ⟨fun hready => ?bytes, fun hready halign => ?halves, fun hready halign => ?word⟩
  case bytes =>
    have hvalue : Memory.readSize s.mem pa 1 = (byte 0).setWidth 32 := readSize_one s.mem pa
    rw [← signExtByte_setWidth, ← byte_setWidth_eq_append, ← hvalue]
    exact ⟨loadSized_loads rfl hbase (Nat.mod_one _) hready,
      loadSized_loads (ext := id) rfl hbase (Nat.mod_one _) hready⟩
  case halves =>
    have hvalue : Memory.readSize s.mem pa 2 = (byte 1 ++ byte 0 : Half).setWidth 32 := hready.readSize_two halign
    rw [← signExtHalf_setWidth, ← half_setWidth_eq_append, ← hvalue]
    exact ⟨loadSized_loads rfl hbase halign hready, loadSized_loads (ext := id) rfl hbase halign hready⟩
  case word =>
    have hvalue : Memory.readSize s.mem pa 4 = byte 3 ++ byte 2 ++ byte 1 ++ byte 0 := hready.readSize_four halign
    rw [← hvalue]
    exact loadSized_loads (ext := id) rfl hbase halign hready

/-! ## Merges -/

/-- An access to an aligned word does not wrap. -/
theorem LoadReady.word_lt {s : State} {va pa : Word} {n : Nat} (h : LoadReady s (wordAddress va) n pa) :
    pa.toNat + 3 < 2 ^ 32 := by
  have := h.low
  have := pa.isLt
  rw [wordAddress_toNat] at *
  omega

/-- The bytes of LWL's result, from memory. -/
theorem LoadReady.mergeLeft_byte {s : State} {va pa : Word} (h : LoadReady s (wordAddress va) 4 pa) (old : Word) {j : Nat}
    (hj : j < 4) :
    (mergeLeft (byteIndex va) (Memory.readWord s.mem pa) old).extractLsb' (8 * j) 8 =
      if 3 ≤ j + va.toNat % 4 then Memory.read s.mem (pa.toNat + (j + va.toNat % 4 - 3))
      else old.extractLsb' (8 * j) 8 := by
  rw [Machine.mergeLeft_byte _ j (by rw [byteIndex_eq]; omega) hj, byteIndex_eq]
  exact ite_congr rfl (fun _ => Memory.byte_readWord s.mem pa h.word_lt _ (by omega)) fun _ => rfl

/-- The bytes of LWR's result, from memory. -/
theorem LoadReady.mergeRight_byte {s : State} {va pa : Word} (h : LoadReady s (wordAddress va) 4 pa) (old : Word) {j : Nat}
    (hj : j < 4) :
    (mergeRight (byteIndex va) (Memory.readWord s.mem pa) old).extractLsb' (8 * j) 8 =
      if j + va.toNat % 4 < 4 then Memory.read s.mem (pa.toNat + (j + va.toNat % 4))
      else old.extractLsb' (8 * j) 8 := by
  rw [Machine.mergeRight_byte _ j (by rw [byteIndex_eq]; omega) hj, byteIndex_eq]
  exact ite_congr rfl (fun hlt => Memory.byte_readWord s.mem pa h.word_lt _ hlt) fun _ => rfl

section
variable {rt base : Reg} {offset : Half} {s : State} {pa : Word} (hbase : s.ld ≠ some base)
  (hready : LoadReady s (wordAddress (effectiveAddress (s.x base) offset)) 4 pa)
include hbase hready

theorem exec_lwl_run :
    exec (.lwl rt base offset) s =
      .next (s.retireLoad rt (mergeLeft (byteIndex (effectiveAddress (s.x base) offset)) (Memory.readWord s.mem pa)
        (s.x rt))) := loadMerged_run hbase hready

theorem exec_lwr_run :
    exec (.lwr rt base offset) s =
      .next (s.retireLoad rt (mergeRight (byteIndex (effectiveAddress (s.x base) offset)) (Memory.readWord s.mem pa)
        (s.x rt))) := loadMerged_run hbase hready

end

/-- Settles O28: each of the two is a load of its merge. -/
theorem loadMergeResults : Obligations.LoadMergeResults := fun _ _ _ _ _ hbase hready =>
  ⟨⟨_, fun _ hj => hready.mergeLeft_byte _ hj, loads_of (exec_lwl_run hbase hready)⟩,
    ⟨_, fun _ hj => hready.mergeRight_byte _ hj, loads_of (exec_lwr_run hbase hready)⟩⟩

/-! ## Stores -/

/-- A read after a store that stays in one word. -/
theorem read_store (m : Memory) {pa : Word} {n : Nat} (hword : pa.toNat % 4 + n ≤ 4) (v : Word) (a : Nat) :
    Memory.read (Memory.writeBytes m pa (lowBytes v n)) a = (bytesAt pa n v a).getD (Memory.read m a) := by
  have := pa.isLt
  rw [Memory.read_writeBytes m pa _ a (by rw [lowBytes_length]; omega), bytesAt]
  by_cases hin : pa.toNat ≤ a ∧ a < pa.toNat + n
  · rw [if_pos hin.1, if_pos hin, Option.getD_some, ← List.getD_eq_getElem?_getD, lowBytes_getD v n _ (by omega)]
  · rw [if_neg hin, Option.getD_none]
    split
    · rw [List.getElem?_eq_none (by rw [lowBytes_length]; omega), Option.getD_none]
    · rfl

/-- The state after a store that reaches memory. -/
def State.stored (s : State) (pa : Word) (n : Nat) (v : Word) : State :=
  { s.retire with mem := Memory.writeBytes s.mem pa (lowBytes v n)
                  written := recordWritten s.written (wordAddress pa).toNat }

/-- An instruction that stores the low n bytes of v within one word. -/
theorem stores_of {i : Instr} {s : State} {pa v : Word} {n : Nat} {bytes : Nat → Option Byte}
    (hexec : exec i s = .next (s.stored pa n v)) (hword : pa.toNat % 4 + n ≤ 4)
    (hbytes : ∀ a, bytes a = bytesAt pa n v a) : Stores i s pa bytes :=
  ⟨_, hexec, fun a => (read_store s.mem hword v a).trans (by rw [hbytes]), fun w => mem_recordWritten _ _ w,
    fun _ => rfl, ⟨rfl, rfl⟩, ⟨rfl, rfl⟩, ⟨rfl, rfl, rfl⟩, rfl, advances_retire s⟩

section
variable {n : Nat} {rt base : Reg} {offset : Half} {s : State} {pa : Word} (hbase : s.ld ≠ some base)
  (hrt : s.ld ≠ some rt)
include hbase hrt

theorem storeSized_stored (halign : (effectiveAddress (s.x base) offset).toNat % n = 0)
    (hready : StoreReady s (effectiveAddress (s.x base) offset) n pa) :
    storeSized n rt base offset s = .next (s.stored pa n (s.x rt)) :=
  (storeSized_run hbase hrt halign).trans (storeBytes_run hready)

theorem exec_swl_run
    (hready : StoreReady s (wordAddress (effectiveAddress (s.x base) offset))
      ((effectiveAddress (s.x base) offset).toNat % 4 + 1) pa) :
    exec (.swl rt base offset) s =
      .next (s.stored pa ((effectiveAddress (s.x base) offset).toNat % 4 + 1)
        (storeLeftValue ((effectiveAddress (s.x base) offset).toNat % 4) (s.x rt))) := by
  rw [← byteIndex_eq] at *
  exact (reading_free hbase _).trans <| (reading_free hrt _).trans <| storeBytes_run hready

theorem exec_swr_run
    (hready : StoreReady s (effectiveAddress (s.x base) offset) (4 - (effectiveAddress (s.x base) offset).toNat % 4) pa) :
    exec (.swr rt base offset) s =
      .next (s.stored pa (4 - (effectiveAddress (s.x base) offset).toNat % 4) (s.x rt)) := by
  rw [← byteIndex_eq] at *
  exact (reading_free hbase _).trans <| (reading_free hrt _).trans <| storeBytes_run hready

end

/-- Settles O29: an aligned store stays in one word. -/
theorem storeResults : Obligations.StoreResults := by
  intro rt base offset s pa hbase hrt va
  refine ⟨fun hready => ?_, fun hready halign => ?_, fun hready halign => ?_⟩
  all_goals have hlow := hready.low
  · exact stores_of (storeSized_stored hbase hrt (Nat.mod_one _) hready) (by omega) fun _ => rfl
  · exact stores_of (storeSized_stored hbase hrt halign hready) (by omega) fun _ => rfl
  · exact stores_of (storeSized_stored hbase hrt halign hready) (by omega) fun _ => rfl

/-- The bytes of SWL are the high ones of the register. -/
theorem bytesAt_storeLeftValue (pa v : Word) (k a : Nat) :
    (if pa.toNat ≤ a ∧ a ≤ pa.toNat + k then some (v.extractLsb' (8 * (3 - k + (a - pa.toNat))) 8) else none) =
      bytesAt pa (k + 1) (storeLeftValue k v) a := by
  rw [bytesAt, storeLeftValue_byte]
  exact if_congr (and_congr_right fun _ => Nat.lt_succ_iff.symm) rfl rfl

/-- Settles O30: SWL starts at the word and ends at va, SWR starts at va and ends with the word. -/
theorem storeMergeResults : Obligations.StoreMergeResults := by
  intro rt base offset s pa hbase hrt
  dsimp only
  refine ⟨fun hready => ?swl, fun hready => ?swr⟩
  all_goals have hlow := hready.low
  case swl =>
    rw [wordAddress_toNat] at hlow
    exact stores_of (exec_swl_run hbase hrt hready) (by omega) (bytesAt_storeLeftValue pa (s.x rt) _)
  case swr => exact stores_of (exec_swr_run hbase hrt hready) (by omega) fun _ => rfl

theorem exec_lw_run {rt base : Reg} {offset : Half} {s : State} {pa : Word} (hbase : s.ld ≠ some base)
    (halign : (effectiveAddress (s.x base) offset).toNat % 4 = 0)
    (hready : LoadReady s (effectiveAddress (s.x base) offset) 4 pa) :
    exec (.lw rt base offset) s = .next (s.retireLoad rt (Memory.readWord s.mem pa)) :=
  loadSized_run (ext := id) hbase halign hready

/-- The word stored at an address is the word read there. -/
theorem readWord_stored (s : State) {pa : Word} (h : pa.toNat % 4 = 0) (v : Word) :
    Memory.readWord (s.stored pa 4 v).mem pa = v := by
  have := pa.isLt
  apply eq_of_bytes
  intro j hj
  rw [Memory.byte_readWord _ pa (by omega) j hj, State.stored, read_store _ (by omega), bytesAt, if_pos (by omega),
    Option.getD_some, Nat.add_sub_cancel_left]

/-- Settles O35: the load reads back the four bytes of the store, at the same translation. -/
theorem storeSeenByNextLoad : Obligations.StoreSeenByNextLoad := by
  intro rt base rd offset s pa hbase hrt hrd va hstore hload halign
  have hlow := hload.low
  have hready : LoadReady (s.stored pa 4 (s.x rt)) va 4 pa := hload
  have hfree : (s.stored pa 4 (s.x rt)).ld ≠ some base := nofun
  refine ⟨_, _, storeSized_stored hbase hrt halign hstore, exec_lw_run hfree halign hready, ?_⟩
  rw [State.retireLoad_x, State.x_setX_self _ _ hrd, readWord_stored s (by omega)]

end Sys2Proof.Machine
end

section
/-! The loads and stores that do not reach memory (20_memory.md R66, R72, R73, R75, R91): each one is its alignment
check, its access, and what follows that access, in this order. -/

namespace Sys2Proof.Machine

/-- Both parts of a continued access that is then finished answer to the same end. -/
theorem Access.finish_andThen {α β : Type} (a : Access α) (f : α → Access β) (s : State) (k : β → Result State) :
    (a.andThen f).finish s k = a.finish s fun v => (f v).finish s k := by
  cases a with
  | done | trap | stop => rfl

/-- SWC2 reads its register between the translation and the write (47_coprocessor.md R237). -/
theorem exec_swc2 (rt base : Reg) (offset : Half) (s : State) :
    exec (.swc2 rt base offset) s = copStore 2#2 base offset s fun ea =>
      (translateAddress s ea .store).finish s fun _ =>
        (memWrite s ea 4 (Config.cop2ReadData s.c2 rt).1).finish { s with c2 := cop2AfterBusError s.c2 rt } fun t =>
          .next { t.retire with c2 := (Config.cop2ReadData s.c2 rt).2 } := rfl

/-! ## Every access behind its alignment check -/

section
variable {n : Nat} {rt base : Reg} {offset : Half} {s : State} (hbase : s.ld ≠ some base)
include hbase

theorem loadSized_checked (ext : Word → Word) :
    loadSized n ext rt base offset s = (checkAligned .load (effectiveAddress (s.x base) offset) n).finish s fun _ =>
      (memRead s (effectiveAddress (s.x base) offset) n).finish s fun v => .next (s.retireLoad rt (ext v)) :=
  (reading_free hbase _).trans (Access.finish_andThen _ _ s _)

theorem loadMerged_checked (merge : Nat → Word → Word → Word) :
    loadMerged merge rt base offset s =
      (checkAligned .load (wordAddress (effectiveAddress (s.x base) offset)) 1).finish s fun _ =>
        (memRead s (wordAddress (effectiveAddress (s.x base) offset)) 4).finish s fun w =>
          .next (s.retireLoad rt (merge (byteIndex (effectiveAddress (s.x base) offset)) w (s.x rt))) := by
  rw [checkAligned_byte]
  exact reading_free hbase _

variable (hrt : s.ld ≠ some rt)
include hrt

theorem storeSized_checked :
    storeSized n rt base offset s = (checkAligned .store (effectiveAddress (s.x base) offset) n).finish s fun _ =>
      storeBytes (effectiveAddress (s.x base) offset) n (s.x rt) s :=
  (reading_free hbase _).trans (reading_free hrt _)

/-- SWL and SWR store bytes, at any address. -/
theorem storeMerged_checked (va v : Word) :
    (reading s base <| reading s rt <| storeBytes va n v s) =
      (checkAligned .store va 1).finish s fun _ => storeBytes va n v s := by
  rw [checkAligned_byte]
  exact (reading_free hbase _).trans (reading_free hrt _)

end

section
variable {i : Instr} {s : State} {kind : AccessKind} {va : Word} {n : Nat} (hfree : HazardFree i s)
include hfree

/-- A load of the core is its checked read and the load of a function of the value read. -/
theorem exec_coreLoad (h : dataAccess i s = some (.load, va, n)) (hcore : coprocessorOf i = none) :
    ∃ (rt : Reg) (f : Word → Word), loadTarget i = some rt ∧ exec i s = (checkAligned .load va (alignmentOf i)).finish s fun _ =>
      (memRead s va n).finish s fun v => .next (s.retireLoad rt (f v)) := by
  have hbase {r : Reg} (hr : r ∈ delayedSources i) := hfree.reads hr
  cases i with
  | lb | lbu | lh | lhu | lw =>
    cases h
    exact ⟨_, _, rfl, loadSized_checked (hbase (.head _)) _⟩
  | lwl | lwr =>
    cases h
    exact ⟨_, _, rfl, loadMerged_checked (hbase (.head _)) _⟩
  | lwc0 | lwc1 | lwc2 | lwc3 => cases hcore
  | _ => cases h

/-- A load is its checked read and what takes its value. -/
theorem exec_load (hu : CopUsable i s) (h : dataAccess i s = some (.load, va, n)) :
    ∃ k, exec i s = (checkAligned .load va (alignmentOf i)).finish s fun _ => (memRead s va n).finish s k := by
  cases i with
  | lwc0 | lwc1 | lwc2 | lwc3 =>
    cases h
    exact ⟨_, (exec_copLoad hu rfl hfree (.head _) rfl).trans (Access.finish_andThen _ _ s _)⟩
  | lb | lbu | lh | lhu | lw | lwl | lwr =>
    obtain ⟨_, _, -, hexec⟩ := exec_coreLoad hfree h rfl
    exact ⟨_, hexec⟩
  | _ => cases h

/-- A store of the core is the checked write of some value. -/
theorem exec_coreStore (h : dataAccess i s = some (.store, va, n)) (hcore : coprocessorOf i = none) :
    ∃ v, exec i s = (checkAligned .store va (alignmentOf i)).finish s fun _ => storeBytes va n v s := by
  have hread {r : Reg} (hr : r ∈ delayedSources i) := hfree.reads hr
  cases i with
  | sb | sh | sw =>
    cases h
    exact ⟨_, storeSized_checked (hread (.head _)) (hread (.tail _ (.head _)))⟩
  | swl | swr =>
    cases h
    exact ⟨_, storeMerged_checked (hread (.head _)) (hread (.tail _ (.head _))) _ _⟩
  | swc2 => cases hcore
  | _ => cases h

/-- Whatever an instruction does with memory, its alignment check comes first. -/
theorem exec_checked (hu : CopUsable i s) (h : checkedAddress i s = some (kind, va)) :
    ∃ k, exec i s = (checkAligned kind va (alignmentOf i)).finish s k := by
  cases i with
  | lb | lbu | lh | lhu | lw | lwl | lwr | lwc0 | lwc1 | lwc2 | lwc3 =>
    cases h
    obtain ⟨_, hexec⟩ := exec_load hfree hu rfl
    exact ⟨_, hexec⟩
  | sb | sh | sw | swl | swr =>
    cases h
    obtain ⟨_, hexec⟩ := exec_coreStore hfree rfl rfl
    exact ⟨_, hexec⟩
  | swc0 =>
    cases h
    exact ⟨_, exec_copStore (k := fun _ => noPath) hu rfl hfree (.head _) rfl⟩
  | swc1 | swc3 =>
    cases h
    exact ⟨_, exec_copStore (k := fun _ => absent) hu rfl hfree (.head _) rfl⟩
  | swc2 rt base offset =>
    cases h
    exact ⟨_, exec_copStore hu rfl hfree (.head _) (exec_swc2 rt base offset s)⟩
  | _ => cases h

end

/-- Settles O32: a failed alignment check is the Address Error of its kind. -/
theorem misalignedAccessTraps : Obligations.MisalignedAccessTraps := by
  intro i s kind va h hfree hu hbad
  obtain ⟨k, hexec⟩ := exec_checked hfree hu h
  rw [checkAligned_bad hbad, Access.finish_trap] at hexec
  refine ⟨fun hkind => ?load, fun hkind => ?store⟩
  all_goals
    subst hkind
    exact hexec

/-! ## What an access answers without memory -/

/-- The answers of an access to the n bytes at va where it does not reach memory (R72, R73, R75). -/
def AnswersWithoutMemory {α : Type} (s : State) (kind : AccessKind) (va : Word) (n : Nat) (a : Access α) : Prop :=
  (∀ e, translateAddress s va kind = .trap e → a = .trap e) ∧
  (∀ f, translateAddress s va kind = .stop f → a = .stop f) ∧
  (∀ t, translateAddress s va kind = .done t → srIsc s.cp0.sr = false →
    (s.platform.busError t.pa kind = true → a = .trap .dbe) ∧
    (s.platform.busError t.pa kind = false →
      (if kind = .store then s.platform.writableAt t.pa n else s.platform.populatedAt t.pa n) = false →
      a = .stop .unpopulated))

theorem memRead_answers (s : State) (va : Word) (n : Nat) : AnswersWithoutMemory s .load va n (memRead s va n) := by
  refine ⟨fun e ht => ?_, fun f ht => ?_, fun t ht hi => ⟨fun hbus => ?_, fun hbus hpop => ?_⟩⟩ <;> rw [memRead, ht]
  · rfl
  · rfl
  · simp [hi, hbus]
  · have hpop : s.platform.populatedAt t.pa n = false := hpop
    simp [hi, hbus, hpop]

theorem memWrite_answers (s : State) (va : Word) (n : Nat) (v : Word) :
    AnswersWithoutMemory s .store va n (memWrite s va n v) := by
  refine ⟨fun e ht => ?_, fun f ht => ?_, fun t ht hi => ⟨fun hbus => ?_, fun hbus hpop => ?_⟩⟩ <;> rw [memWrite, ht]
  · rfl
  · rfl
  · simp [hi, hbus]
  · have hpop : s.platform.writableAt t.pa n = false := hpop
    simp [hi, hbus, hpop]

theorem exec_swc2_aligned {rt base : Reg} {offset : Half} {s : State} (hu : CopUsable (.swc2 rt base offset) s)
    (hfree : HazardFree (.swc2 rt base offset) s) (halign : (effectiveAddress (s.x base) offset).toNat % 4 = 0) :
    exec (.swc2 rt base offset) s =
      (translateAddress s (effectiveAddress (s.x base) offset) .store).finish s fun _ =>
        (memWrite s (effectiveAddress (s.x base) offset) 4 (Config.cop2ReadData s.c2 rt).1).finish
          { s with c2 := cop2AfterBusError s.c2 rt } fun t =>
            .next { t.retire with c2 := (Config.cop2ReadData s.c2 rt).2 } :=
  exec_copStore_aligned hu rfl hfree (.head _) (exec_swc2 rt base offset s) halign

/-- Every access of the core and every load past the alignment check is one read or write and what follows it. -/
theorem exec_access {i : Instr} {s : State} {kind : AccessKind} {va : Word} {n : Nat}
    (h : dataAccess i s = some (kind, va, n)) (hfree : HazardFree i s) (hu : CopUsable i s)
    (halign : va.toNat % alignmentOf i = 0) (hswc2 : ∀ rt b o, i ≠ .swc2 rt b o) :
    ∃ (α : Type) (a : Access α) (k : α → Result State),
      AnswersWithoutMemory s kind va n a ∧ exec i s = a.finish s k := by
  have haligned : checkAligned kind va (alignmentOf i) = .done () := checkAligned_ok halign
  cases kind with
  | fetch => cases i <;> cases h
  | load =>
    obtain ⟨k, hexec⟩ := exec_load hfree hu h
    rw [haligned, Access.finish_done] at hexec
    exact ⟨_, _, k, memRead_answers s va n, hexec⟩
  | store =>
    have hcore : coprocessorOf i = none := by
      cases i with
      | swc2 => exact absurd rfl (hswc2 _ _ _)
      | sb | sh | sw | swl | swr => rfl
      | _ => cases h
    obtain ⟨v, hexec⟩ := exec_coreStore hfree h hcore
    rw [haligned, Access.finish_done] at hexec
    exact ⟨_, _, _, memWrite_answers s va n v, hexec⟩

/-- Settles O33: an access passes its exceptions and stops on; only SWC2, which translates before it reads its register,
is no single access. -/
theorem dataAccessDoesNotReach : Obligations.DataAccessDoesNotReach := by
  intro i s kind va n h hfree hu halign
  by_cases hswc2 : ∃ rt b o, i = .swc2 rt b o
  case pos =>
    obtain ⟨rt, b, o, rfl⟩ := hswc2
    cases h
    have hexec := exec_swc2_aligned hu hfree halign
    refine ⟨fun e ht => ?_, fun f ht => ?_, fun t ht hi => ?_⟩
    · rw [Traps, hexec, ht, Access.finish_trap]
    · rw [hexec, ht, Access.finish_stop]
    · obtain ⟨-, -, hdone⟩ := memWrite_answers s (effectiveAddress (s.x b) o) 4 (Config.cop2ReadData s.c2 rt).1
      obtain ⟨hbus, hpop⟩ := hdone t ht hi
      rw [ht, Access.finish_done] at hexec
      refine ⟨fun _ hne => absurd rfl (hne rt b o), fun hb rt' b' o' heq => ?_, fun hb hp => ?_⟩
      · cases heq
        rw [hbus hb, Access.finish_trap] at hexec
        exact ⟨_, cop2AfterBusError_cases s.c2 rt, hexec⟩
      · rw [hexec, hpop hb hp, Access.finish_stop]
  case neg =>
    push Not at hswc2
    obtain ⟨α, a, k, ⟨htrap, hstop, hdone⟩, hexec⟩ := exec_access h hfree hu halign hswc2
    refine ⟨fun e ht => ?_, fun f ht => ?_, fun t ht hi => ?_⟩
    · rw [Traps, hexec, htrap e ht, Access.finish_trap]
    · rw [hexec, hstop f ht, Access.finish_stop]
    · obtain ⟨hbus, hpop⟩ := hdone t ht hi
      refine ⟨fun hb _ => ?_, fun _ rt b o hi => absurd hi (hswc2 rt b o), fun hb hp => ?_⟩
      · rw [Traps, hexec, hbus hb, Access.finish_trap]
      · rw [hexec, hpop hb hp, Access.finish_stop]

/-! ## The isolated cache -/

section
variable {i : Instr} {s : State} {va : Word} {n : Nat} {t : Translated} (hfree : HazardFree i s)
  (halign : va.toNat % alignmentOf i = 0) (hi : srIsc s.cp0.sr = true)
include hfree halign hi

theorem exec_coreLoad_isolated (h : dataAccess i s = some (.load, va, n)) (hcore : coprocessorOf i = none)
    (ht : translateAddress s va .load = .done t) :
    ∃ rt v, loadTarget i = some rt ∧ exec i s = .next (s.retireLoad rt v) := by
  obtain ⟨rt, f, htarget, hexec⟩ := exec_coreLoad hfree h hcore
  rw [checkAligned_ok halign, Access.finish_done, memRead_isolated ht hi, Access.finish_done] at hexec
  exact ⟨rt, _, htarget, hexec⟩

theorem exec_coreStore_isolated (h : dataAccess i s = some (.store, va, n)) (hcore : coprocessorOf i = none)
    (ht : translateAddress s va .store = .done t) : exec i s = .next s.retire := by
  obtain ⟨v, hexec⟩ := exec_coreStore hfree h hcore
  rwa [checkAligned_ok halign, Access.finish_done, storeBytes_isolated ht hi] at hexec

theorem exec_cop2Access_isolated {kind : AccessKind} (hu : CopUsable i s) (h : dataAccess i s = some (kind, va, n))
    (hcop : coprocessorOf i = some 2#2) (ht : translateAddress s va kind = .done t) :
    ∃ c, exec i s = .next { s.retire with c2 := c } := by
  cases i with
  | lwc2 =>
    cases h
    have hexec := exec_copLoad hu rfl hfree (.head _) rfl
    have haligned := checkAligned_ok (kind := .load) (n := 4) halign
    rw [haligned, Access.andThen_done, memRead_isolated ht hi, Access.finish_done] at hexec
    exact ⟨_, hexec⟩
  | swc2 =>
    cases h
    have hexec := exec_swc2_aligned hu hfree halign
    rw [ht, Access.finish_done, memWrite_isolated ht hi, Access.finish_done] at hexec
    exact ⟨_, hexec⟩
  | lb | lbu | lh | lhu | lw | lwl | lwr | lwc0 | lwc1 | lwc3 | sb | sh | sw | swl | swr => cases hcop
  | _ => cases h

end

/-- Settles O34: a load of the core is a load of some value, every other access advances alone. -/
theorem isolatedCacheAccess : Obligations.IsolatedCacheAccess := by
  intro i s kind va n pa h hfree hu hcop halign ht hi
  obtain hcore | hcop2 := hcop
  · cases kind with
    | fetch => cases i <;> cases h
    | load =>
      obtain ⟨rt, v, htarget, hexec⟩ := exec_coreLoad_isolated hfree halign hi h hcore ht
      obtain ⟨hhilo, hsystem, hmemory, hworld, hc2⟩ := sameRest_retireLoad s rt v
      refine ⟨_, hexec, hhilo, hsystem, hmemory, hworld, fun _ => hc2, ?_, fun _ _ =>
        ⟨rt, v, htarget, regsAfter_retireLoad s rt v, advancesLoad_retireLoad s rt v⟩⟩
      rintro (hkind | hcop2)
      · cases hkind
      · cases hcore.symm.trans hcop2
    | store =>
      obtain ⟨hregs, hhilo, hsystem, hmemory, hworld, hadv⟩ := cop2_frame s s.c2
      exact ⟨_, exec_coreStore_isolated hfree halign hi h hcore ht, hhilo, hsystem, hmemory, hworld, fun _ => rfl,
        fun _ => ⟨hregs, hadv⟩, nofun⟩
  · obtain ⟨c, hexec⟩ := exec_cop2Access_isolated hfree halign hi hu h hcop2 ht
    obtain ⟨hregs, hhilo, hsystem, hmemory, hworld, hadv⟩ := cop2_frame s c
    refine ⟨_, hexec, hhilo, hsystem, hmemory, hworld, fun hcore => ?_, fun _ => ⟨hregs, hadv⟩, fun _ hcore => ?_⟩
    all_goals cases hcore.symm.trans hcop2

end Sys2Proof.Machine
end

section
/-! LWC2 and SWC2 where they reach memory (47_coprocessor.md R236, R237). -/

namespace Sys2Proof.Machine

section
variable {rt base : Reg} {offset : Half} {s : State} (hbase : s.ld ≠ some base)
include hbase

theorem hazardFree_lwc2 : HazardFree (.lwc2 rt base offset) s :=
  ⟨List.forall_mem_singleton.2 hbase, nofun, nofun, nofun⟩

theorem hazardFree_swc2 : HazardFree (.swc2 rt base offset) s :=
  ⟨List.forall_mem_singleton.2 hbase, nofun, nofun, nofun⟩

variable (hu : s.usable 2#2 = true) {pa : Word} (halign : (effectiveAddress (s.x base) offset).toNat % 4 = 0)
include hu halign

theorem exec_lwc2_run (hready : LoadReady s (effectiveAddress (s.x base) offset) 4 pa) :
    exec (.lwc2 rt base offset) s =
      .next { s.retire with c2 := Config.cop2WriteData s.c2 rt (Memory.readWord s.mem pa) } := by
  have husable : CopUsable (.lwc2 rt base offset) s := fun z hz => by cases hz; exact hu
  have hexec := exec_copLoad_ready husable rfl (hazardFree_lwc2 hbase) (.head _) rfl halign hready
  exact hexec

theorem exec_swc2_run (hready : StoreReady s (effectiveAddress (s.x base) offset) 4 pa) :
    exec (.swc2 rt base offset) s =
      .next { s.stored pa 4 (Config.cop2ReadData s.c2 rt).1 with c2 := (Config.cop2ReadData s.c2 rt).2 } := by
  have husable : CopUsable (.swc2 rt base offset) s := fun z hz => by cases hz; exact hu
  have hexec := exec_swc2_aligned husable (hazardFree_swc2 hbase) halign
  rw [memWrite_ready hready] at hexec
  obtain ⟨⟨c, ht⟩, -⟩ := hready
  rw [ht] at hexec
  exact hexec

end

/-- Settles O54: the access is that of LW and SW, the word goes to and comes from the device. -/
theorem cop2LoadAndStore : Obligations.Cop2LoadAndStore := by
  intro rt base offset s pa hcu hbase va halign
  have hu : s.usable 2#2 = true := usable_of_cu hcu
  refine ⟨fun hready => ?load, fun hready => ?store⟩
  case load =>
    exact ⟨_, exec_lwc2_run hbase hu halign hready,
      congrArg (Config.cop2WriteData s.c2 rt) (hready.readSize_four halign), cop2_frame s _⟩
  case store =>
    have hlow := hready.low
    exact ⟨_, exec_swc2_run hbase hu halign hready, rfl, fun a => read_store s.mem (by omega) _ a,
      fun w => mem_recordWritten _ _ w, fun _ => rfl, ⟨rfl, rfl⟩, ⟨rfl, rfl⟩, ⟨rfl, rfl, rfl⟩, advances_retire s⟩

end Sys2Proof.Machine
end

section
/-! The unaligned pairs (40_load_store.md R148, R154): the part at A is in the word of A, the part at A + 3 in the next
word, or in the same one where A is aligned. -/

namespace Sys2Proof.Machine

/-! ## The two words -/

theorem toNat_add_three_mod (va : Word) : (va + 3#32).toNat % 4 = (va.toNat % 4 + 3) % 4 := by
  rw [BitVec.toNat_add, BitVec.toNat_ofNat]
  omega

theorem wordAddress_of_aligned {va : Word} (h : va.toNat % 4 = 0) : wordAddress va = va := by
  apply BitVec.eq_of_toNat_eq
  rw [wordAddress_toNat]
  omega

theorem wordAddress_add_three {va : Word} (h : va.toNat % 4 = 0) : wordAddress (va + 3#32) = va := by
  have := va.isLt
  apply BitVec.eq_of_toNat_eq
  rw [wordAddress_toNat, BitVec.toNat_add, BitVec.toNat_ofNat]
  omega

theorem translated_unique {s : State} {va p q : Word} {kind : AccessKind}
    (hp : ∃ c, translateAddress s va kind = .done { pa := p, cacheable := c })
    (hq : ∃ c, translateAddress s va kind = .done { pa := q, cacheable := c }) : p = q := by
  obtain ⟨c, hp⟩ := hp
  obtain ⟨d, hq⟩ := hq
  cases hp.symm.trans hq
  rfl

/-- Where byte j of the unaligned word at offset k of its word lies; p is the address of its first byte, q the next
word. -/
def unalignedHome (k p q j : Nat) : Nat := if k + j < 4 then p + j else q + (k + j - 4)

/-! ## The loads -/

section
variable {va p q : Word} {s : State} (hp : LoadReady s (wordAddress va) 4 p)
  (hq : LoadReady s (wordAddress (va + 3#32)) 4 q)
include hp hq

/-- The part at A + 3 over the part at A: where A is aligned, it is the whole of the one word. -/
theorem mergeLeft_mergeRight_byte (old : Word) {j : Nat} (hj : j < 4) :
    (mergeLeft (byteIndex (va + 3#32)) (Memory.readWord s.mem q)
      (mergeRight (byteIndex va) (Memory.readWord s.mem p) old)).extractLsb' (8 * j) 8 =
      Memory.read s.mem (if va.toNat % 4 + j < 4 then p.toNat + (va.toNat % 4 + j)
        else q.toNat + (va.toNat % 4 + j - 4)) := by
  rw [hq.mergeLeft_byte _ hj, hp.mergeRight_byte _ hj, toNat_add_three_mod]
  by_cases hk : va.toNat % 4 = 0
  · obtain ⟨hp, -⟩ := hp
    obtain ⟨hq, -⟩ := hq
    rw [wordAddress_of_aligned hk] at hp
    rw [wordAddress_add_three hk] at hq
    obtain rfl := translated_unique hp hq
    rw [if_pos (by omega), if_pos (by omega)]
    congr 1
    omega
  · by_cases hfirst : va.toNat % 4 + j < 4
    · rw [if_neg (by omega), if_pos (by omega), if_pos hfirst, add_comm j]
    · rw [if_pos (by omega), if_neg hfirst]
      congr 1
      omega

/-- The part at A over the part at A + 3. -/
theorem mergeRight_mergeLeft_byte (old : Word) {j : Nat} (hj : j < 4) :
    (mergeRight (byteIndex va) (Memory.readWord s.mem p)
      (mergeLeft (byteIndex (va + 3#32)) (Memory.readWord s.mem q) old)).extractLsb' (8 * j) 8 =
      Memory.read s.mem (if va.toNat % 4 + j < 4 then p.toNat + (va.toNat % 4 + j)
        else q.toNat + (va.toNat % 4 + j - 4)) := by
  rw [hp.mergeRight_byte _ hj, hq.mergeLeft_byte _ hj, toNat_add_three_mod, add_comm j]
  by_cases hfirst : va.toNat % 4 + j < 4
  · rw [if_pos hfirst, if_pos hfirst]
  · rw [if_neg hfirst, if_neg hfirst, if_pos (by omega)]
    congr 1
    omega

end

/-- A load leaves the accesses of the next instruction as they were. -/
theorem LoadReady.retireLoad {s : State} {va pa : Word} {n : Nat} (h : LoadReady s va n pa) (rt : Reg) (v : Word) :
    LoadReady (s.retireLoad rt v) va n pa := by
  simpa [LoadReady, translateAddress] using h

/-- A merge into the register that the instruction before it loaded takes the loaded value (the exception of R331). -/
theorem loadMerged_after_load {merge : Nat → Word → Word → Word} {rt base : Reg} {offset : Half} {s : State}
    {va q : Word} (hrt : rt ≠ 0#5) (hbase : rt ≠ base) (hva : effectiveAddress (s.x base) offset = va)
    (hq : LoadReady s (wordAddress va) 4 q) (v : Word) :
    loadMerged merge rt base offset (s.retireLoad rt v) =
      .next ((s.retireLoad rt v).retireLoad rt (merge (byteIndex va) (Memory.readWord s.mem q) v)) := by
  have hld : (s.retireLoad rt v).ld ≠ some base := by simp [hrt, hbase]
  have hx : (s.retireLoad rt v).x base = s.x base := State.x_setX_of_ne s v (Ne.symm hbase)
  have hxrt : (s.retireLoad rt v).x rt = v := State.x_setX_self s v hrt
  have hready : LoadReady (s.retireLoad rt v) (wordAddress (effectiveAddress ((s.retireLoad rt v).x base) offset)) 4 q := by
    rw [hx, hva]
    exact hq.retireLoad rt v
  rw [loadMerged_run hld hready, hx, hva, hxrt, State.retireLoad_mem]

/-- What two loads of one register leave: the second value, and nothing else but the register. -/
theorem frame_of_two_loads (s : State) {rt : Reg} (hrt : rt ≠ 0#5) (v w : Word) :
    let u := (s.retireLoad rt v).retireLoad rt w
    u.x rt = w ∧ (∀ r, r ≠ rt → u.x r = s.x r) ∧ SameRest s u := by
  refine ⟨State.x_setX_self _ w hrt, fun r hr => ?_, ?_⟩
  · exact (State.x_setX_of_ne _ w hr).trans (State.x_setX_of_ne s v hr)
  · simp [SameRest, SameHiLo, SameSystem, SameMemory, SameWorld]

/-! ## The stores -/

/-- Each byte that f writes is the byte of v that lives there. -/
def WritesHome (home : Nat → Nat) (v : Word) (f : Nat → Option Byte) : Prop :=
  ∀ a, f a = none ∨ ∃ j, j < 4 ∧ a = home j ∧ f a = some (v.extractLsb' (8 * j) 8)

/-- Two parts that write at home, one over the other, and together write every home. -/
theorem WritesHome.over {home : Nat → Nat} {v : Word} {f g : Nat → Option Byte} (hf : WritesHome home v f)
    (hg : WritesHome home v g) (hinj : ∀ i j, i < 4 → j < 4 → home i = home j → i = j)
    (hall : ∀ j, j < 4 → f (home j) ≠ none ∨ g (home j) ≠ none) (m : Nat → Byte) :
    (∀ j, j < 4 → (f (home j)).getD ((g (home j)).getD (m (home j))) = v.extractLsb' (8 * j) 8) ∧
    (∀ a, (∀ j, j < 4 → a ≠ home j) → (f a).getD ((g a).getD (m a)) = m a) := by
  refine ⟨fun j hj => ?_, fun a ha => ?_⟩
  · obtain hfn | ⟨i, hi, hh, hfv⟩ := hf (home j)
    · obtain hgn | ⟨i, hi, hh, hgv⟩ := hg (home j)
      · exact absurd (hall j hj) (by simp [hfn, hgn])
      · obtain rfl := hinj j i hj hi hh
        rw [hfn, hgv, Option.getD_none, Option.getD_some]
    · obtain rfl := hinj j i hj hi hh
      rw [hfv, Option.getD_some]
  · obtain hfn | ⟨i, hi, hh, -⟩ := hf a
    · obtain hgn | ⟨i, hi, hh, -⟩ := hg a
      · rw [hfn, hgn, Option.getD_none, Option.getD_none]
      · exact absurd hh (ha i hi)
    · exact absurd hh (ha i hi)

section
variable {p q v : Word} {k k' : Nat} (hk : k < 4) (hk' : k' = (k + 3) % 4)

/-- SWR at A. -/
theorem writesHome_right : WritesHome (unalignedHome k p.toNat q.toNat) v (bytesAt p (4 - k) v) := by
  intro a
  rw [bytesAt]
  split
  · exact .inr ⟨a - p.toNat, by omega, by rw [unalignedHome, if_pos (by omega)]; omega, rfl⟩
  · exact .inl rfl

include hk hk' in
/-- SWL at A + 3, which writes the whole word where A is aligned. -/
theorem writesHome_left (hsame : k = 0 → p = q) :
    WritesHome (unalignedHome k p.toNat q.toNat) v (bytesAt q (k' + 1) (storeLeftValue k' v)) := by
  intro a
  rw [← bytesAt_storeLeftValue]
  split
  · refine .inr ⟨3 - k' + (a - q.toNat), by omega, ?_, rfl⟩
    rw [unalignedHome]
    obtain rfl | hpos := k.eq_zero_or_pos
    · rw [hsame rfl, if_pos (by omega)]
      omega
    · rw [if_neg (by omega)]
      omega
  · exact .inl rfl

include hk hk' in
theorem pair_writes_every_home {j : Nat} (hj : j < 4) :
    bytesAt p (4 - k) v (unalignedHome k p.toNat q.toNat j) ≠ none ∨
      bytesAt q (k' + 1) (storeLeftValue k' v) (unalignedHome k p.toNat q.toNat j) ≠ none := by
  by_cases hfirst : k + j < 4
  · rw [unalignedHome, if_pos hfirst, bytesAt, if_pos (by omega)]
    exact .inl nofun
  · rw [unalignedHome, if_neg hfirst, ← bytesAt_storeLeftValue, if_pos (by omega)]
    exact .inr nofun

theorem unalignedHome_injective (hp : p.toNat % 4 = k) (hq : q.toNat % 4 = 0) {i j : Nat} (hi : i < 4) (hj : j < 4)
    (h : unalignedHome k p.toNat q.toNat i = unalignedHome k p.toNat q.toNat j) : i = j := by
  unfold unalignedHome at h
  split_ifs at h <;> omega

end

@[simp] theorem State.stored_x (s : State) (pa : Word) (n : Nat) (v : Word) (r : Reg) : (s.stored pa n v).x r = s.x r := rfl

/-- What two stores at home leave: the four bytes of the register, and every other byte. -/
theorem stored_stored_home {home : Nat → Nat} {p q x v w : Word} {n m : Nat} (s : State)
    (hfirst : WritesHome home x (bytesAt p n v)) (hsecond : WritesHome home x (bytesAt q m w))
    (hinj : ∀ i j, i < 4 → j < 4 → home i = home j → i = j)
    (hall : ∀ j, j < 4 → bytesAt q m w (home j) ≠ none ∨ bytesAt p n v (home j) ≠ none)
    (hp : p.toNat % 4 + n ≤ 4) (hq : q.toNat % 4 + m ≤ 4) :
    let u := (s.stored p n v).stored q m w
    (∀ j, j < 4 → Memory.read u.mem (home j) = x.extractLsb' (8 * j) 8) ∧
    (∀ a, (∀ j, j < 4 → a ≠ home j) → Memory.read u.mem a = Memory.read s.mem a) ∧
    SameRegs s u ∧ SameHiLo s u ∧ SameSystem s u ∧ SameWorld s u ∧ u.c2 = s.c2 := by
  intro u
  have hread (a : Nat) : Memory.read u.mem a =
      (bytesAt q m w a).getD ((bytesAt p n v a).getD (Memory.read s.mem a)) :=
    (read_store _ hq w a).trans (congrArg _ (read_store s.mem hp v a))
  obtain ⟨hhome, hother⟩ := hsecond.over hfirst hinj hall (Memory.read s.mem)
  exact ⟨fun j hj => (hread _).trans (hhome j hj), fun a ha => (hread a).trans (hother a ha), fun _ => rfl,
    ⟨rfl, rfl⟩, ⟨rfl, rfl⟩, ⟨rfl, rfl, rfl⟩, rfl⟩

/-- Settles O31: the two loads merge the two parts in either order, and the two stores write each byte where it lives,
so that their order does not matter. -/
theorem unalignedPairs : Obligations.UnalignedPairs := by
  intro rt base o o' s p q hbase va k ho'
  refine ⟨fun hp hq hrt hne => ?loads, fun hp hq hld => ?stores⟩
  case loads =>
    have hq' : LoadReady s (wordAddress (effectiveAddress (s.x base) o')) 4 q := by rwa [ho']
    rw [List.forall_mem_cons, List.forall_mem_singleton]
    constructor
    · obtain ⟨hval, hframe⟩ := frame_of_two_loads s hrt (mergeRight (byteIndex va) (Memory.readWord s.mem p) (s.x rt)) _
      refine ⟨_, _, exec_lwr_run hbase hp, loadMerged_after_load hrt hne ho' hq _, fun j hj => ?_, hframe⟩
      rw [hval, mergeLeft_mergeRight_byte hp hq _ hj]
    · obtain ⟨hval, hframe⟩ := frame_of_two_loads s hrt
        (mergeLeft (byteIndex (effectiveAddress (s.x base) o')) (Memory.readWord s.mem q) (s.x rt)) _
      refine ⟨_, _, exec_lwl_run hbase hq', loadMerged_after_load hrt hne rfl hp _, fun j hj => ?_, hframe⟩
      rw [hval, ho', mergeRight_mergeLeft_byte hp hq _ hj]
  case stores =>
    intro home
    have hplow := hp.low
    have hqlow := hq.low
    rw [wordAddress_toNat] at hqlow
    have hk : k < 4 := Nat.mod_lt _ (by decide)
    have hk' := toNat_add_three_mod va
    have hsame : k = 0 → p = q := by
      intro hzero
      obtain ⟨hp, -⟩ := hp
      obtain ⟨hq, -⟩ := hq
      rw [wordAddress_add_three hzero] at hq
      exact translated_unique hp hq
    have hright := writesHome_right (p := p) (q := q) (v := s.x rt) (k := k)
    have hleft := writesHome_left (v := s.x rt) hk hk' hsame
    have hinj (i j : Nat) := unalignedHome_injective (p := p) (q := q) (k := k) (i := i) (j := j) (by omega) (by omega)
    have hpfit : p.toNat % 4 + (4 - k) ≤ 4 := by omega
    have hqfit : q.toNat % 4 + ((va + 3#32).toNat % 4 + 1) ≤ 4 := by omega
    rw [← ho'] at hq
    rw [List.forall_mem_cons, List.forall_mem_singleton]
    constructor
    · have hsecond := exec_swl_run (s := s.stored p (4 - k) (s.x rt)) (rt := rt) nofun nofun hq
      rw [State.stored_x, ho'] at hsecond
      exact ⟨_, _, exec_swr_run hbase hld hp, hsecond, stored_stored_home s hright hleft hinj
        (fun j hj => (pair_writes_every_home hk hk' hj).symm) hpfit hqfit⟩
    · have hfirst := exec_swl_run hbase hld hq
      rw [ho'] at hfirst
      exact ⟨_, _, hfirst, exec_swr_run (rt := rt) nofun nofun hp, stored_stored_home s hleft hright hinj
        (fun j hj => pair_writes_every_home hk hk' hj) hqfit hpfit⟩

end Sys2Proof.Machine
end
